-- ==== Sys2Proof/Word.lean ====
section
/-! DEFINITION. The words of the machine: a byte is 8 bits (spec 00_scope R8), registers and command words are 32 or 64 bits (10_state R24). -/

namespace Sys2Proof

/-- A byte, bits 7 (most significant) down to 0 (rule R8). -/
abbrev Byte := BitVec 8

/-- A 32-bit register, command word or SHA-1 word (rules R24, R83, R133). -/
abbrev Word32 := BitVec 32

/-- A 64-bit register (rule R24). -/
abbrev Word64 := BitVec 64

end Sys2Proof
end

