-- ==== Sys2Proof/Syntax.lean ====
section
/-! DEFINITION. The instructions: one constructor for each of the 16 rows of spec/opcode_table.json, and the three places an encoding stands in (30_encoding R70 to R75, R83 to R86; 44_encode R192). -/

namespace Sys2Proof

/-- The rows of the opcode table. The first nine are command words (R84, R86), the next six the header formats of a wire
frame (R75), the last the byte 0 that ENCODE emits (R192). -/
inductive Instr where
  /-- DECODE, FLAG = `expect_masked` (R84, R85, R160). -/
  | decode (expectMasked : Bool)
  /-- ENCODE, FLAG = `mask` (R84, R85, R190). -/
  | encode (mask : Bool)
  /-- NEGOTIATE (R84, R110). -/
  | negotiate
  /-- MASKXOR (R84, R103). -/
  | maskxor
  /-- SHA1 (R84, R130). -/
  | sha1
  /-- B64ENC (R84, R140). -/
  | b64enc
  /-- RESERVED_OP0: OP = 0, the other 28 bits whatever they are (R86). -/
  | reservedOp0 (rest : BitVec 28)
  /-- RESERVED_OP7: OP = 7, the other 28 bits whatever they are (R86). -/
  | reservedOp7 (rest : BitVec 28)
  /-- RESERVED_OP8_15: OP = 8 to 15, its low three bits `low` (R86). -/
  | reservedOp8_15 (low : BitVec 3) (rest : BitVec 28)
  /-- F16U: unmasked, 16-bit extended length (R75). -/
  | f16u (fin : Bool) (rsv : BitVec 3) (opcode : BitVec 4)
  /-- F16M: masked, 16-bit extended length (R75). -/
  | f16m (fin : Bool) (rsv : BitVec 3) (opcode : BitVec 4)
  /-- F64U: unmasked, 64-bit extended length (R75). -/
  | f64u (fin : Bool) (rsv : BitVec 3) (opcode : BitVec 4)
  /-- F64M: masked, 64-bit extended length (R75). -/
  | f64m (fin : Bool) (rsv : BitVec 3) (opcode : BitVec 4)
  /-- F7U: unmasked, the length is `len7`, 0 to 125 (R75). -/
  | f7u (fin : Bool) (rsv : BitVec 3) (opcode : BitVec 4) (len7 : BitVec 7)
  /-- F7M: masked, the length is `len7`, 0 to 125 (R75). -/
  | f7m (fin : Bool) (rsv : BitVec 3) (opcode : BitVec 4) (len7 : BitVec 7)
  /-- ENCODE_BYTE0: the one byte 0 ENCODE emits (R192). -/
  | encodeByte0
deriving DecidableEq, Repr

/-- An encoding, with the place it stands in: the word written to CMD (R83), the first two bytes of a frame in IBUF (R71, R72),
the first byte of a frame in OBUF (R192). -/
inductive Code where
  | command (w : Word32)
  | header (byte0 byte1 : Byte)
  | firstByte (b : Byte)
deriving DecidableEq, Repr

/-- Why the decoder rejects an encoding that no row of the table matches. -/
inductive Reject where
  /-- OP is 1 to 6 and a bit of 7:4 or 31:9 is set (R86). -/
  | reservedBitSet
  /-- OP is 3 to 6 and FLAG is 1 (R85, R86). -/
  | flagMustBeZero
  /-- a first byte ENCODE never emits (R192). -/
  | notEmitted
deriving DecidableEq, Repr

end Sys2Proof
end

