-- ==== Sys2Proof/WellFormed.lean ====
section
/-! DEFINITION. Which instructions are well formed: in the formats F7U and F7M the base length is 0 to 125, since 126 and 127 select the other formats (30_encoding R73, R75). -/

namespace Sys2Proof

/-- The check of R75 on the operand fields; every other field admits every value of its width. -/
def Instr.wellFormed : Instr → Bool
  | .f7u _ _ _ len7 => len7.toNat ≤ 125
  | .f7m _ _ _ len7 => len7.toNat ≤ 125
  | .decode _ => true
  | .encode _ => true
  | .negotiate => true
  | .maskxor => true
  | .sha1 => true
  | .b64enc => true
  | .reservedOp0 _ => true
  | .reservedOp7 _ => true
  | .reservedOp8_15 _ _ => true
  | .f16u _ _ _ => true
  | .f16m _ _ _ => true
  | .f64u _ _ _ => true
  | .f64m _ _ _ => true
  | .encodeByte0 => true

end Sys2Proof
end

