-- ==== Sys2Proof/Decode.lean ====
section
/-! DEFINITION. The decoder, total on every word and every pair of bytes and rejecting by name, and after it the encoder, both from 30_encoding R71 to R75, R83 to R86 and 44_encode R192. -/

namespace Sys2Proof

/-- Field OP of a command word, bits 3:0 (R83). -/
def cmdOp (w : Word32) : BitVec 4 := w.extractLsb' 0 4

/-- Field FLAG of a command word, bit 8 (R83). -/
def cmdFlag (w : Word32) : Bool := w.getLsbD 8

/-- Bits 31:4 of a command word, which the reserved operation codes leave free. -/
def cmdRest (w : Word32) : BitVec 28 := w.extractLsb' 4 28

/-- A reserved bit, 7:4 or 31:9, is 1 (R83, R86). -/
def cmdReservedSet (w : Word32) : Bool := w &&& 0xFFFFFEF0#32 != 0#32

/-- The operations whose FLAG is their Boolean argument: DECODE and ENCODE (R85). -/
def decodeFlagged (w : Word32) (mk : Bool → Instr) : Except Reject Instr :=
  if cmdReservedSet w then .error .reservedBitSet else .ok (mk (cmdFlag w))

/-- The operations whose FLAG must be 0 (R85). -/
def decodePlain (w : Word32) (i : Instr) : Except Reject Instr :=
  if cmdReservedSet w then .error .reservedBitSet
  else if cmdFlag w then .error .flagMustBeZero
  else .ok i

/-- The command word's decoder (R83 to R86). -/
def decodeCommand (w : Word32) : Except Reject Instr :=
  match (cmdOp w).toNat with
  | 0 => .ok (.reservedOp0 (cmdRest w))
  | 1 => decodeFlagged w .decode
  | 2 => decodeFlagged w .encode
  | 3 => decodePlain w .negotiate
  | 4 => decodePlain w .maskxor
  | 5 => decodePlain w .sha1
  | 6 => decodePlain w .b64enc
  | 7 => .ok (.reservedOp7 (cmdRest w))
  | _ => .ok (.reservedOp8_15 (w.extractLsb' 0 3) (cmdRest w))

/-- `fin`, bit 7 of byte 0 (R71). -/
def hdrFin (byte0 : Byte) : Bool := byte0.getLsbD 7

/-- `rsv`, bits 6:4 of byte 0 (R71). -/
def hdrRsv (byte0 : Byte) : BitVec 3 := byte0.extractLsb' 4 3

/-- `opcode`, bits 3:0 of byte 0 (R71). -/
def hdrOpcode (byte0 : Byte) : BitVec 4 := byte0.extractLsb' 0 4

/-- `masked`, bit 7 of byte 1 (R72). -/
def hdrMasked (byte1 : Byte) : Bool := byte1.getLsbD 7

/-- `len7`, bits 6:0 of byte 1 (R72). -/
def hdrLen7 (byte1 : Byte) : BitVec 7 := byte1.extractLsb' 0 7

/-- The header parser: `masked` and `len7` select exactly one of the six formats (R75). -/
def decodeHeader (byte0 byte1 : Byte) : Instr :=
  let fin := hdrFin byte0
  let rsv := hdrRsv byte0
  let opcode := hdrOpcode byte0
  let len7 := hdrLen7 byte1
  if hdrMasked byte1 then
    if len7.toNat = 126 then .f16m fin rsv opcode
    else if len7.toNat = 127 then .f64m fin rsv opcode
    else .f7m fin rsv opcode len7
  else
    if len7.toNat = 126 then .f16u fin rsv opcode
    else if len7.toNat = 127 then .f64u fin rsv opcode
    else .f7u fin rsv opcode len7

/-- The byte 0 of an emitted frame: 0x81 and no other (R192). -/
def decodeFirstByte (b : Byte) : Except Reject Instr :=
  if b = 0x81#8 then .ok .encodeByte0 else .error .notEmitted

/-- The decoder over the three places an encoding stands in. -/
def decode : Code → Except Reject Instr
  | .command w => decodeCommand w
  | .header byte0 byte1 => .ok (decodeHeader byte0 byte1)
  | .firstByte b => decodeFirstByte b

/-- The command word with operation code `op`, FLAG `flag` and every reserved bit 0 (R83). -/
def commandWord (op : BitVec 4) (flag : Bool) : Word32 :=
  0#23 ++ (BitVec.ofBool flag ++ (0#4 ++ op))

/-- A command word with operation code `op` and bits 31:4 as given (R83). -/
def reservedWord (op : BitVec 4) (rest : BitVec 28) : Word32 := rest ++ op

/-- Byte 0 of a frame (R71). -/
def headerByte0 (fin : Bool) (rsv : BitVec 3) (opcode : BitVec 4) : Byte :=
  BitVec.ofBool fin ++ (rsv ++ opcode)

/-- Byte 1 of a frame (R72). -/
def headerByte1 (masked : Bool) (len7 : BitVec 7) : Byte := BitVec.ofBool masked ++ len7

/-- The encoder: the words of a well-formed instruction (R75, R84, R86, R192). -/
def encode : Instr → Code
  | .decode em => .command (commandWord 1#4 em)
  | .encode mask => .command (commandWord 2#4 mask)
  | .negotiate => .command (commandWord 3#4 false)
  | .maskxor => .command (commandWord 4#4 false)
  | .sha1 => .command (commandWord 5#4 false)
  | .b64enc => .command (commandWord 6#4 false)
  | .reservedOp0 rest => .command (reservedWord 0#4 rest)
  | .reservedOp7 rest => .command (reservedWord 7#4 rest)
  | .reservedOp8_15 low rest => .command (reservedWord (1#1 ++ low) rest)
  | .f16u fin rsv opcode => .header (headerByte0 fin rsv opcode) (headerByte1 false 126#7)
  | .f16m fin rsv opcode => .header (headerByte0 fin rsv opcode) (headerByte1 true 126#7)
  | .f64u fin rsv opcode => .header (headerByte0 fin rsv opcode) (headerByte1 false 127#7)
  | .f64m fin rsv opcode => .header (headerByte0 fin rsv opcode) (headerByte1 true 127#7)
  | .f7u fin rsv opcode len7 => .header (headerByte0 fin rsv opcode) (headerByte1 false len7)
  | .f7m fin rsv opcode len7 => .header (headerByte0 fin rsv opcode) (headerByte1 true len7)
  | .encodeByte0 => .firstByte 0x81#8

/-- The instruction the decoder reads from an opcode-table word: a command word is one 32-bit word, a frame header the 16-bit
word byte0 * 256 + byte1 (R75), the emitted byte 0 one byte. No row has another width. -/
def decodeTableWord (nbits w : Nat) : Option Instr :=
  match nbits with
  | 32 => (decode (.command (BitVec.ofNat 32 w))).toOption
  | 16 => (decode (.header (BitVec.ofNat 8 (w / 256)) (BitVec.ofNat 8 w))).toOption
  | 8 => (decode (.firstByte (BitVec.ofNat 8 w))).toOption
  | _ => none

end Sys2Proof
end

