-- ==== Sys2Proof/Machine/Flags.lean ====
section
/-! DEFINITION. The layouts of STATUS and HDR, their fields, and the error codes (10_state R26, R30, R36; 60_exceptions R211). -/

namespace Sys2Proof.Machine

/-- The six errors (R210, R211). -/
inductive WsError where
  | missingKey
  | headerTooShort
  | missingMaskKey
  | truncatedFrame
  | payloadTooLarge
  | illegalCommand
deriving DecidableEq, Repr

/-- `code(E)` (R211). -/
def errorCode : WsError → BitVec 4
  | .missingKey => 1#4
  | .headerTooShort => 2#4
  | .missingMaskKey => 3#4
  | .truncatedFrame => 4#4
  | .payloadTooLarge => 5#4
  | .illegalCommand => 6#4

/-- STATUS from its fields: ERR in 7:4, bit 3 zero, MM in 2, DONE in 1, BUSY in 0, the rest zero (R26). -/
def statusWord (busy done mm : Bool) (err : BitVec 4) : Word32 :=
  0#24 ++ (err ++ (0#1 ++ (BitVec.ofBool mm ++ (BitVec.ofBool done ++ BitVec.ofBool busy))))

/-- BUSY, bit 0 of STATUS (R26). -/
def statusBusy (w : Word32) : Bool := w.getLsbD 0

/-- DONE, bit 1 of STATUS (R26). -/
def statusDone (w : Word32) : Bool := w.getLsbD 1

/-- MM, bit 2 of STATUS (R26). -/
def statusMm (w : Word32) : Bool := w.getLsbD 2

/-- ERR, bits 7:4 of STATUS (R26). -/
def statusErr (w : Word32) : BitVec 4 := w.extractLsb' 4 4

/-- HDR from its fields: OPCODE in 7:4, bits 3:2 zero, MASKED in 1, FIN in 0, the rest zero (R30). -/
def hdrWord (fin masked : Bool) (opcode : BitVec 4) : Word32 :=
  0#24 ++ (opcode ++ (0#2 ++ (BitVec.ofBool masked ++ BitVec.ofBool fin)))

/-- HDR.FIN, bit 0 (R30). -/
def hdrRegFin (w : Word32) : Bool := w.getLsbD 0

/-- HDR.MASKED, bit 1 (R30). -/
def hdrRegMasked (w : Word32) : Bool := w.getLsbD 1

/-- HDR.OPCODE, bits 7:4 (R30). -/
def hdrRegOpcode (w : Word32) : BitVec 4 := w.extractLsb' 4 4

/-- HDR with the reserved bits cleared: they read 0 whatever the register holds (R30, U3). -/
def hdrMaskReserved (w : Word32) : Word32 := w &&& 0x000000F3#32

/-- MM of a successful DECODE: the frame's MASK bit differs from `expect_masked` (R171). -/
def maskMismatch (masked expectMasked : Bool) : Bool := masked != expectMasked

end Sys2Proof.Machine
end

