-- ==== Sys2Proof/Config.lean ====
section
/-! DEFINITION. What an implementation fixes (spec 00_scope R6, R7) and the free values the spec leaves open (93_implementation_defined U1 to U4). -/

namespace Sys2Proof

/-- The three sizes the spec leaves to the implementation (rule R6): capacity of IBUF and of OBUF in bytes, and the
largest payload length DECODE and ENCODE accept. -/
structure Config where
  ibufSize   : Nat
  obufSize   : Nat
  maxPayload : Nat
deriving DecidableEq, Repr

/-- The constraints of rule R6 on the parameters. -/
abbrev Config.Legal (c : Config) : Prop :=
  2 ≤ c.ibufSize ∧ c.ibufSize < 2 ^ 61 - 36 ∧ 156 ≤ c.obufSize ∧ c.maxPayload + 14 ≤ c.obufSize ∧
    c.maxPayload ≤ 2 ^ 64 - 1

/-- The reference configuration of rule R7, a choice of test bench and not a property of the hardware (log 1). -/
def Config.refcfg : Config := { ibufSize := 131072, obufSize := 131072, maxPayload := 131058 }

/-- FREE VALUE (log 5): what port `rnd` carries when draw `n` samples it (rules R38, R39, R195; U4). -/
opaque Config.rnd : Nat → Word32

/-- FREE VALUE (log 4): byte `i` of an IBUF left unspecified by draw `n` (rule R40; U1). -/
opaque Config.anyIbufByte : Nat → Nat → Byte

/-- FREE VALUE (log 4): byte `i` of an OBUF left unspecified by draw `n` (rules R33, R40; U1, U2, U3). -/
opaque Config.anyObufByte : Nat → Nat → Byte

/-- FREE VALUE (log 8): KEY after a DECODE error, at draw `n` (rule R176; U3). -/
opaque Config.anyKey : Nat → Word32

/-- FREE VALUE (log 8): what HDR's fields are taken from after a DECODE error, at draw `n` (rule R176; U3). -/
opaque Config.anyHdr : Nat → Word32

/-- FREE VALUE (log 8): PAYLEN after a DECODE error, at draw `n` (rule R176; U3). -/
opaque Config.anyPaylen : Nat → Word64

/-- FREE VALUE (log 8): FRAMELEN after a DECODE error, at draw `n` (rule R176; U3). -/
opaque Config.anyFramelen : Nat → Word64

end Sys2Proof
end

