-- ==== Sys2Proof/Machine/State.lean ====
section
/-! DEFINITION. The state (10_state R20, R24 to R35, R40), the moves of the transition system (10_state R21), the reasons to stop, and the state after reset. -/

namespace Sys2Proof.Machine

/-- A buffer: pairs of an index and the byte written there, indices strictly rising. An index that is not listed has not been
written since the buffer was last left unspecified; it reads as a free value (log 4). -/
abbrev Memory := List Host.Cell

/-- The canonical form of a buffer: indices strictly rising. No value is that of an unlisted index, so no entry repeats one. -/
abbrev Memory.wf (m : Memory) : Prop := m.Pairwise (fun c d => c.1 < d.1)

/-- The moves of the transition system (rule R21; liberties H1 to H4 of rule R251). Which of them are steps in which phase is
decided where they are taken. -/
inductive Move where
  /-- the block's turn: in BUSY it completes the operation (R21 step 3), in IDLE it has nothing to do (R226). -/
  | blockTurn
  /-- the host asserts the reset port (R21 step 4, R240). -/
  | assertReset
  /-- the host reads the register with this index (R21 step 1, R24). -/
  | readReg (index : Nat)
  /-- the host writes the register with this index; index 0 is CMD and issues (R21 steps 1 and 2, R24, R25). A 32-bit register
  takes bits 31:0 (log 6). -/
  | writeReg (index : Nat) (value : Word64)
  /-- the host reads a byte of IBUF (R34). -/
  | readIbuf (index : Nat)
  /-- the host writes a byte of IBUF (R34). -/
  | writeIbuf (index : Nat) (value : Byte)
  /-- the host reads a byte of OBUF (R35). -/
  | readObuf (index : Nat)
  /-- the host writes a byte of OBUF, which is ignored (R35). -/
  | writeObuf (index : Nat) (value : Byte)
deriving DecidableEq, Repr

/-- Why a step faults: for no reason. "Nothing in WSFC is a fault (no input makes the block trap), nothing is stuck" (R227, R14),
so the type has no constructor. -/
inductive Fault where
deriving DecidableEq, Repr

/-- Why a step is refused. Only moves of the host are refused, never an instruction. -/
inductive Refusal where
  /-- raised by exec's arm of an instruction that has no meaning in this model; no arm raises it. Safe. -/
  | notModelled (mnemonic : String)
  /-- raised by a host access in phase BUSY other than a read of STATUS, to which R250 gives no meaning (U5). Safe. -/
  | busyAccess
  /-- raised by a host access to a register index of 8 or more, which does not exist (R24, U8). Safe. -/
  | noSuchRegister
  /-- raised by a host access to a buffer index at or above the buffer's size, which names no byte (R50, U9). Safe. -/
  | noSuchByte
deriving DecidableEq, Repr

/-- The machine. `cfg` to `obuf` are the spec's (R20); `ibufDraw` to `readData` are the model's own (log 3, 4, 5, 6). -/
structure State where
  /-- the parameters of rule R6, which no step changes. -/
  cfg      : Config
  /-- STATUS (R26). -/
  status   : Word32
  /-- ILEN (R27). -/
  ilen     : Word64
  /-- OLEN (R28). -/
  olen     : Word64
  /-- KEY (R29). -/
  key      : Word32
  /-- HDR (R30). -/
  hdr      : Word32
  /-- PAYLEN (R31). -/
  paylen   : Word64
  /-- FRAMELEN (R32). -/
  framelen : Word64
  /-- the latched command word, present while an operation is in progress (R20, R21, R214; log 2). -/
  latched  : Option Word32
  /-- IBUF (R34). -/
  ibuf     : Memory
  /-- OBUF (R35). -/
  obuf     : Memory
  /-- the draw that fills the unlisted bytes of IBUF (log 4, 5). -/
  ibufDraw : Nat
  /-- the draw that fills the unlisted bytes of OBUF (log 4, 5). -/
  obufDraw : Nat
  /-- the next draw of free values (log 5). -/
  draws    : Nat
  /-- the moves still to come, the next one first (log 3). -/
  moves    : List Move
  /-- what the host's last read returned, zero-extended (log 6). -/
  readData : Option Word64
deriving DecidableEq, Repr

/-- The table of rule R40 for a block with parameters `cfg`, with the moves still to come, the number of the draw that fills
the buffers and what the host last read. -/
def State.afterReset (cfg : Config) (moves : List Move) (draw : Nat) (readData : Option Word64) : State :=
  { cfg := cfg
    status := 0#32
    ilen := 0#64
    olen := 0#64
    key := 0#32
    hdr := 0#32
    paylen := 0#64
    framelen := 0#64
    latched := none
    ibuf := []
    obuf := []
    ibufDraw := draw
    obufDraw := draw
    draws := draw + 1
    moves := moves
    readData := readData }

/-- The machine right after reset (R40), in the reference configuration (R7; log 1), no move to come. -/
def State.reset : State := State.afterReset Config.refcfg [] 0 none

end Sys2Proof.Machine
end

