-- ==== Sys2Proof/Machine/Ops.lean ====
section
/-! DEFINITION. The named operations over buffers and registers: reading and writing a buffer, issue, completion with success, completion with an error (the block's one "trap entry", 60_exceptions R216; it has no return, R217), and reset. -/

namespace Sys2Proof.Machine

/-- The byte listed at index `a`, if there is one. -/
def Memory.read : Memory → Nat → Option Byte
  | [], _ => none
  | (k, v) :: m, a => if a = k then some v else Memory.read m a

/-- The buffer with byte `b` at index `a`, indices still rising. -/
def Memory.write : Memory → Nat → Byte → Memory
  | [], a, b => [(a, b)]
  | (k, v) :: m, a, b =>
    if a < k then (a, b) :: (k, v) :: m
    else if a = k then (a, b) :: m
    else (k, v) :: Memory.write m a b

/-- The bytes of a list at indices `a`, `a + 1`, ... -/
def Memory.ofBytesFrom : Nat → List Byte → Memory
  | _, [] => []
  | a, b :: bs => (a, b) :: Memory.ofBytesFrom (a + 1) bs

/-- The buffer that holds a byte string from index 0 on. -/
def Memory.ofBytes (bs : List Byte) : Memory := Memory.ofBytesFrom 0 bs

/-- `IBUF[i]` (R10); what an unlisted index reads as is a free value (R40, U1; log 4). -/
def State.ibufByte (s : State) (i : Nat) : Byte :=
  (s.ibuf.read i).getD (Config.anyIbufByte s.ibufDraw i)

/-- `OBUF[i]` (R10); what an unlisted index reads as is a free value (R33, R40, U1 to U3; log 4). -/
def State.obufByte (s : State) (i : Nat) : Byte :=
  (s.obuf.read i).getD (Config.anyObufByte s.obufDraw i)

/-- Phase BUSY, visible as STATUS.BUSY (R21). -/
def State.busy (s : State) : Bool := statusBusy s.status

/-- The output `done`: STATUS.DONE at all times (R39, R218). -/
def State.donePin (s : State) : Bool := statusDone s.status

/-- Issue: the word is latched, BUSY is set, DONE, MM and ERR are cleared, nothing else changes (R21 step 2). -/
def State.issue (s : State) (w : Word32) : State :=
  { s with status := statusWord true false false 0#4, latched := some w }

/-- What every completion writes: STATUS, OLEN, OBUF with every byte above the result unspecified, and the phase (R21, R33,
R215, R216). One draw is used up. -/
def State.complete (s : State) (err : BitVec 4) (mm : Bool) (result : List Byte) : State :=
  { s with
    status := statusWord false true mm err
    olen := BitVec.ofNat 64 result.length
    latched := none
    obuf := Memory.ofBytes result
    obufDraw := s.draws
    draws := s.draws + 1 }

/-- Completion with success: the result bytes, their number, ERR 0 (R215). -/
def State.succeed (s : State) (mm : Bool) (result : List Byte) : State := s.complete 0#4 mm result

/-- Completion with an error (R216): ERR its code, MM 0, OLEN 0, every byte of OBUF unspecified, every other register as it
was. This is what taking an exception is in this block; nothing is saved and there is nothing to return from (R217). -/
def State.raise (s : State) (e : WsError) : State := s.complete (errorCode e) false []

/-- Completion of DECODE with an error of its own: KEY, HDR, PAYLEN and FRAMELEN are unspecified as well, HDR's reserved bits
still 0 (R176, R216, U3). -/
def State.raiseDecode (s : State) (e : WsError) : State :=
  { s.raise e with
    key := Config.anyKey s.draws
    hdr := hdrMaskReserved (Config.anyHdr s.draws)
    paylen := Config.anyPaylen s.draws
    framelen := Config.anyFramelen s.draws }

/-- The reset event, in any phase: the table of R40, an operation in progress abandoned (R21 step 4, R240). -/
def State.resetEvent (s : State) : State := State.afterReset s.cfg s.moves s.draws s.readData

end Sys2Proof.Machine
end

