-- ==== Sys2Proof/Machine/Operands.lean ====
section
/-! DEFINITION. How an operation reads its arguments: ILEN, slices of IBUF, big-endian numbers, the bytes of a key, FLAG, and the check that every operation makes first (00_scope R10; 20_memory R52, R53; 30_encoding R86). -/

namespace Sys2Proof.Machine

/-- ILEN as a natural number (R9, R27). -/
def State.inLen (s : State) : Nat := s.ilen.toNat

/-- FLAG of the latched command (R21 step 2, R83). -/
def State.flag (s : State) : Bool :=
  match s.latched with
  | some w => cmdFlag w
  | none => false

/-- The bytes `IBUF[a .. a+n)` (R10). -/
def State.ibufSlice (s : State) : Nat → Nat → List Byte
  | _, 0 => []
  | a, n + 1 => s.ibufByte a :: s.ibufSlice (a + 1) n

/-- The input of an operation, `IBUF[0 .. ILEN)`. -/
def State.input (s : State) : List Byte := s.ibufSlice 0 s.inLen

/-- A byte string read as one unsigned number, the first byte the most significant (R10, R52). -/
def bytesToNat (bs : List Byte) : Nat := bs.foldl (fun v b => v * 256 + b.toNat) 0

/-- `MemRead(IBUF, a, n)` (R10, R52). -/
def State.ibufNat (s : State) (a n : Nat) : Nat := bytesToNat (s.ibufSlice a n)

/-- The `n` bytes `MemWrite` writes for the number `v`, the most significant first (R10, R52). -/
def natToBytes : Nat → Nat → List Byte
  | 0, _ => []
  | n + 1, v => BitVec.ofNat 8 (v / 256 ^ n) :: natToBytes n v

/-- `key[i]` of a key packed in 32 bits, `key[0]` in bits 31:24 (R29, R53). -/
def keyByte (key : Word32) (i : Nat) : Byte := key.extractLsb' (24 - 8 * i) 8

/-- `key[0..4)` in wire order (R53). -/
def keyBytes (key : Word32) : List Byte := [keyByte key 0, keyByte key 1, keyByte key 2, keyByte key 3]

/-- The check made before any other: a legal word issued with ILEN > IBUF_SIZE completes with IllegalCommand (R86, R213, R214). -/
def State.checkLength (s : State) (run : State) : State :=
  if s.cfg.ibufSize < s.inLen then s.raise .illegalCommand else run

end Sys2Proof.Machine
end

