-- ==== Sys2Proof/Machine/Crypto.lean ====
section
/-! DEFINITION. SHA-1 and base64, and the operations SHA1 and B64ENC (42_crypto_primitives R130 to R147). -/

namespace Sys2Proof.Machine

/-- The padded message: 0x80, the least number of zero bytes that fills the last block, the length in bits (R131). -/
def sha1Pad (m : List Byte) : List Byte :=
  m ++ 0x80#8 :: (List.replicate ((119 - m.length % 64) % 64) 0#8 ++ natToBytes 8 (8 * m.length))

/-- A byte string cut into big-endian 32-bit words (R132). -/
def sha1Words : List Byte → List Word32
  | b0 :: b1 :: b2 :: b3 :: bs => (b0 ++ (b1 ++ (b2 ++ b3)) : Word32) :: sha1Words bs
  | _ => []

/-- Word `t` of a schedule or block. -/
def wordAt (w : List Word32) (t : Nat) : Word32 := w.getD t 0#32

/-- The schedule extended by the next `n` words: W[t] = rotl(W[t-3] XOR W[t-8] XOR W[t-14] XOR W[t-16], 1) (R133). -/
def sha1Extend : Nat → List Word32 → List Word32
  | 0, w => w
  | n + 1, w =>
    let t := w.length
    let x := wordAt w (t - 3) ^^^ wordAt w (t - 8) ^^^ wordAt w (t - 14) ^^^ wordAt w (t - 16)
    sha1Extend n (w ++ [x.rotateLeft 1])

/-- The 80 words of the schedule of a block of 16 (R133). -/
def sha1Schedule (block : List Word32) : List Word32 := sha1Extend 64 block

/-- `f_t` (R134). -/
def sha1F (t : Nat) (b c d : Word32) : Word32 :=
  if t < 20 then (b &&& c) ||| (~~~b &&& d)
  else if t < 40 then b ^^^ c ^^^ d
  else if t < 60 then (b &&& c) ||| (b &&& d) ||| (c &&& d)
  else b ^^^ c ^^^ d

/-- `K_t` (R134). -/
def sha1K (t : Nat) : Word32 :=
  if t < 20 then 0x5A827999#32
  else if t < 40 then 0x6ED9EBA1#32
  else if t < 60 then 0x8F1BBCDC#32
  else 0xCA62C1D6#32

/-- The five words of a hash value H0 to H4, or of the working variables a to e. -/
structure Hash5 where
  a : Word32
  b : Word32
  c : Word32
  d : Word32
  e : Word32
deriving DecidableEq, Repr

/-- The initial hash value (R135). -/
def sha1Init : Hash5 :=
  { a := 0x67452301#32, b := 0xEFCDAB89#32, c := 0x98BADCFE#32, d := 0x10325476#32, e := 0xC3D2E1F0#32 }

/-- Round `t` with schedule word `w` (R136). -/
def sha1Round (t : Nat) (w : Word32) (h : Hash5) : Hash5 :=
  { a := h.a.rotateLeft 5 + sha1F t h.b h.c h.d + h.e + sha1K t + w
    b := h.a
    c := h.b.rotateLeft 30
    d := h.c
    e := h.d }

/-- The rounds from round `t` on, one for each word left of the schedule (R136). -/
def sha1Rounds : Nat → List Word32 → Hash5 → Hash5
  | _, [], h => h
  | t, w :: ws, h => sha1Rounds (t + 1) ws (sha1Round t w h)

/-- The compression of one block into the hash value (R136). -/
def sha1Compress (block : List Word32) (h : Hash5) : Hash5 :=
  let r := sha1Rounds 0 (sha1Schedule block) h
  { a := h.a + r.a, b := h.b + r.b, c := h.c + r.c, d := h.d + r.d, e := h.e + r.e }

/-- The compression of the first `n` blocks of a word string, in order (R132, R136). -/
def sha1Blocks : Nat → List Word32 → Hash5 → Hash5
  | 0, _, h => h
  | n + 1, ws, h => sha1Blocks n (ws.drop 16) (sha1Compress (ws.take 16) h)

/-- The digest bytes of a hash value (R137). -/
def sha1Output (h : Hash5) : List Byte :=
  natToBytes 4 h.a.toNat ++ (natToBytes 4 h.b.toNat ++ (natToBytes 4 h.c.toNat ++
    (natToBytes 4 h.d.toNat ++ natToBytes 4 h.e.toNat)))

/-- The function SHA1(M) (R138); the padded message has floor((L + 8) / 64) + 1 blocks (R131). -/
def sha1Hash (m : List Byte) : List Byte :=
  sha1Output (sha1Blocks ((m.length + 8) / 64 + 1) (sha1Words (sha1Pad m)) sha1Init)

/-- The character of the alphabet with index `i` below 64 (R144). -/
def b64Char (i : Nat) : Byte :=
  if i < 26 then BitVec.ofNat 8 (0x41 + i)
  else if i < 52 then BitVec.ofNat 8 (0x61 + (i - 26))
  else if i < 62 then BitVec.ofNat 8 (0x30 + (i - 52))
  else if i = 62 then 0x2B#8
  else 0x2F#8

/-- The pad character `=` (R143). -/
def b64Pad : Byte := 0x3D#8

/-- Character `k` of a group whose 24-bit number is `v`: index v[23:18], v[17:12], v[11:6] or v[5:0] (R142). -/
def b64Digit (v k : Nat) : Byte := b64Char (v / 64 ^ (3 - k) % 64)

/-- The function B64(d) (R141 to R143). -/
def b64Encode : List Byte → List Byte
  | x0 :: x1 :: x2 :: rest =>
    let v := x0.toNat * 65536 + x1.toNat * 256 + x2.toNat
    b64Digit v 0 :: b64Digit v 1 :: b64Digit v 2 :: b64Digit v 3 :: b64Encode rest
  | [x0, x1] =>
    let v := x0.toNat * 65536 + x1.toNat * 256
    [b64Digit v 0, b64Digit v 1, b64Digit v 2, b64Pad]
  | [x0] =>
    let v := x0.toNat * 65536
    [b64Digit v 0, b64Digit v 1, b64Pad, b64Pad]
  | [] => []

/-- The length of the base64 text of `n` bytes, 4 * ceil(n / 3) (R140). -/
def b64Length (n : Nat) : Nat := 4 * ((n + 2) / 3)

/-- SHA1 (R130). -/
def execSha1 (s : State) : Host.Outcome State Fault Refusal :=
  .next (s.checkLength (s.succeed false (sha1Hash s.input)))

/-- B64ENC (R140, R146). -/
def execB64enc (s : State) : Host.Outcome State Fault Refusal :=
  .next (s.checkLength
    (if s.cfg.obufSize < b64Length s.inLen then s.raise .payloadTooLarge
     else s.succeed false (b64Encode s.input)))

end Sys2Proof.Machine
end

