-- ==== Sys2Proof/Machine/Masking.lean ====
section
/-! DEFINITION. The masking-XOR engine and MASKXOR (40_mask_transform R100 to R106). -/

namespace Sys2Proof.Machine

/-- The transform on a byte string whose first byte has position `i`: each byte XOR `key[i mod 4]` (R100, R102). -/
def maskFrom (key : Word32) : Nat → List Byte → List Byte
  | _, [] => []
  | i, b :: bs => (b ^^^ keyByte key (i % 4)) :: maskFrom key (i + 1) bs

/-- `mask(key, p)` (R100). -/
def maskBytes (key : Word32) (p : List Byte) : List Byte := maskFrom key 0 p

/-- MASKXOR (R103, R104). -/
def execMaskxor (s : State) : Host.Outcome State Fault Refusal :=
  .next (s.checkLength
    (if s.cfg.obufSize < s.inLen then s.raise .payloadTooLarge
     else s.succeed false (maskBytes s.key s.input)))

end Sys2Proof.Machine
end

