-- ==== Sys2Proof/Machine/FrameDecode.lean ====
section
/-! DEFINITION. DECODE and the six header formats (43_decode R160 to R180; 30_encoding R70 to R81). -/

namespace Sys2Proof.Machine

/-- The payload at `hdrw + keyw`, unmasked with the key at `hdrw` when the frame is masked (R168, R169). -/
def State.framePayload (s : State) (masked : Bool) (key : Word32) (pos plen : Nat) : List Byte :=
  if masked then maskBytes key (s.ibufSlice pos plen) else s.ibufSlice pos plen

/-- The masking key at frame offset `hdrw`, packed as in KEY (R53, R76, R169). -/
def State.frameKey (s : State) (hdrw : Nat) : Word32 := BitVec.ofNat 32 (s.ibufNat hdrw 4)

/-- The key width (R75). -/
def keyWidth (masked : Bool) : Nat := if masked then 4 else 0

/-- Steps 6 and 7 and the results of a DECODE whose checks have passed (R168 to R171). -/
def State.decodeResult (s : State) (expectMasked fin masked : Bool) (opcode : BitVec 4) (hdrw plen : Nat) : State :=
  let pos := hdrw + keyWidth masked
  let key := s.frameKey hdrw
  { s.succeed (maskMismatch masked expectMasked) (s.framePayload masked key pos plen) with
    key := if masked then key else s.key
    hdr := hdrWord fin masked opcode
    paylen := BitVec.ofNat 64 plen
    framelen := BitVec.ofNat 64 (pos + plen) }

/-- The checks of DECODE in their order, for a frame whose header has been parsed (R160, R161, R164 to R167, R213): `hdrw` is the
header width and `plen` the length that the header's length field gives (read only where it is present). -/
def State.decodeFrame (s : State) (expectMasked fin masked : Bool) (opcode : BitVec 4) (hdrw plen : Nat) : State :=
  s.checkLength
    (if s.inLen < 2 then s.raiseDecode .headerTooShort
     else if s.inLen < hdrw then s.raiseDecode .truncatedFrame
     else if s.cfg.maxPayload < plen then s.raiseDecode .payloadTooLarge
     else if masked = true ∧ s.inLen < hdrw + 4 then s.raiseDecode .missingMaskKey
     else if s.inLen < hdrw + keyWidth masked + plen then s.raiseDecode .truncatedFrame
     else s.decodeResult expectMasked fin masked opcode hdrw plen)

/-- The header width that `len7` selects (R73). -/
def headerWidth (len7 : BitVec 7) : Nat :=
  if len7.toNat ≤ 125 then 2 else if len7.toNat = 126 then 4 else 10

/-- The payload length that `len7` selects (R73, R74, R163). -/
def State.payloadLength (s : State) (len7 : BitVec 7) : Nat :=
  if len7.toNat ≤ 125 then len7.toNat
  else if len7.toNat = 126 then s.ibufNat 2 2
  else s.ibufNat 2 8

/-- DECODE (R160): the header is read from IBUF[0] and IBUF[1] (R162). -/
def execDecode (expectMasked : Bool) (s : State) : Host.Outcome State Fault Refusal :=
  let b0 := s.ibufByte 0
  let b1 := s.ibufByte 1
  .next (s.decodeFrame expectMasked (hdrFin b0) (hdrMasked b1) (hdrOpcode b0) (headerWidth (hdrLen7 b1))
    (s.payloadLength (hdrLen7 b1)))

/-- F7U: the DECODE in progress, its frame's header of this format (R75, R160; log 7). The rsv bits are discarded (R80). -/
def execF7u (fin : Bool) (_rsv : BitVec 3) (opcode : BitVec 4) (len7 : BitVec 7) (s : State) :
    Host.Outcome State Fault Refusal :=
  .next (s.decodeFrame s.flag fin false opcode 2 len7.toNat)

/-- F7M: the DECODE in progress, its frame's header of this format (R75, R160; log 7). -/
def execF7m (fin : Bool) (_rsv : BitVec 3) (opcode : BitVec 4) (len7 : BitVec 7) (s : State) :
    Host.Outcome State Fault Refusal :=
  .next (s.decodeFrame s.flag fin true opcode 2 len7.toNat)

/-- F16U: the DECODE in progress, its frame's header of this format (R75, R160; log 7). -/
def execF16u (fin : Bool) (_rsv : BitVec 3) (opcode : BitVec 4) (s : State) : Host.Outcome State Fault Refusal :=
  .next (s.decodeFrame s.flag fin false opcode 4 (s.ibufNat 2 2))

/-- F16M: the DECODE in progress, its frame's header of this format (R75, R160; log 7). -/
def execF16m (fin : Bool) (_rsv : BitVec 3) (opcode : BitVec 4) (s : State) : Host.Outcome State Fault Refusal :=
  .next (s.decodeFrame s.flag fin true opcode 4 (s.ibufNat 2 2))

/-- F64U: the DECODE in progress, its frame's header of this format (R75, R160, R180; log 7). -/
def execF64u (fin : Bool) (_rsv : BitVec 3) (opcode : BitVec 4) (s : State) : Host.Outcome State Fault Refusal :=
  .next (s.decodeFrame s.flag fin false opcode 10 (s.ibufNat 2 8))

/-- F64M: the DECODE in progress, its frame's header of this format (R75, R160, R180; log 7). -/
def execF64m (fin : Bool) (_rsv : BitVec 3) (opcode : BitVec 4) (s : State) : Host.Outcome State Fault Refusal :=
  .next (s.decodeFrame s.flag fin true opcode 10 (s.ibufNat 2 8))

end Sys2Proof.Machine
end

