-- ==== Sys2Proof/Machine/FrameEncode.lean ====
section
/-! DEFINITION. ENCODE and the byte 0 it emits (44_encode R190 to R201; 30_encoding R82). -/

namespace Sys2Proof.Machine

/-- Byte 0 of every emitted frame: fin 1, rsv 0, opcode text (R192). -/
def textByte0 : Byte := headerByte0 true 0#3 1#4

/-- Byte 1 and the extended length for a payload of `n` bytes: the shortest form, the MASK bit `mask` (R193, R194). -/
def lengthField (mask : Bool) (n : Nat) : List Byte :=
  if n < 126 then [headerByte1 mask (BitVec.ofNat 7 n)]
  else if n ≤ 65535 then headerByte1 mask 126#7 :: natToBytes 2 n
  else headerByte1 mask 127#7 :: natToBytes 8 n

/-- The emitted frame: byte 0, the length field, then key and masked payload or the payload as it is (R192 to R197). -/
def encodedFrame (byte0 : Byte) (mask : Bool) (rnd : Word32) (payload : List Byte) : List Byte :=
  byte0 :: (lengthField mask payload.length ++
    (if mask then keyBytes rnd ++ maskBytes rnd payload else payload))

/-- The results of an ENCODE whose size check has passed: the frame, KEY if masked, HDR, PAYLEN, FRAMELEN (R190, R198). -/
def State.encodeResult (s : State) (byte0 : Byte) (mask : Bool) (rnd : Word32) : State :=
  let frame := encodedFrame byte0 mask rnd s.input
  { s.succeed false frame with
    key := if mask then rnd else s.key
    hdr := hdrWord true mask 1#4
    paylen := BitVec.ofNat 64 s.inLen
    framelen := BitVec.ofNat 64 frame.length }

/-- ENCODE's checks and results, for the value `rnd` that the port carries (R190, R191, R195, R198). -/
def State.encodeFrame (s : State) (byte0 : Byte) (mask : Bool) (rnd : Word32) : State :=
  s.checkLength
    (if s.cfg.maxPayload < s.inLen then s.raise .payloadTooLarge else s.encodeResult byte0 mask rnd)

/-- ENCODE (R190); the key is one draw from `rnd` (R195). -/
def execEncode (mask : Bool) (s : State) : Host.Outcome State Fault Refusal :=
  .next (s.encodeFrame textByte0 mask (Config.rnd s.draws))

/-- ENCODE_BYTE0: the ENCODE in progress, which emits a frame whose byte 0 is this byte (R192; log 7). -/
def execEncodeByte0 (s : State) : Host.Outcome State Fault Refusal :=
  .next (s.encodeFrame 0x81#8 s.flag (Config.rnd s.draws))

end Sys2Proof.Machine
end

