-- ==== Sys2Proof/Machine/Handshake.lean ====
section
/-! DEFINITION. The handshake sequencer and NEGOTIATE (41_handshake R110 to R121); the text constants in ASCII bytes (30_encoding R87; 95_test_vectors S7). -/

namespace Sys2Proof.Machine

/-- The needle `Sec-WebSocket-Key:`, 18 bytes (R87, R111). -/
def hsNeedle : List Byte :=
  [0x53#8, 0x65#8, 0x63#8, 0x2D#8, 0x57#8, 0x65#8, 0x62#8, 0x53#8, 0x6F#8, 0x63#8, 0x6B#8, 0x65#8,
   0x74#8, 0x2D#8, 0x4B#8, 0x65#8, 0x79#8, 0x3A#8]

/-- The GUID `258EAFA5-E914-47DA-95CA-C5AB0DC85B11`, 36 bytes (R87, R115). -/
def hsGuid : List Byte :=
  [0x32#8, 0x35#8, 0x38#8, 0x45#8, 0x41#8, 0x46#8, 0x41#8, 0x35#8, 0x2D#8, 0x45#8, 0x39#8, 0x31#8,
   0x34#8, 0x2D#8, 0x34#8, 0x37#8, 0x44#8, 0x41#8, 0x2D#8, 0x39#8, 0x35#8, 0x43#8, 0x41#8, 0x2D#8,
   0x43#8, 0x35#8, 0x41#8, 0x42#8, 0x30#8, 0x44#8, 0x43#8, 0x38#8, 0x35#8, 0x42#8, 0x31#8, 0x31#8]

/-- `HTTP/1.1 101 Switching Protocols` CR LF, offset 0 (R116). -/
def hsStatusLine : List Byte :=
  [0x48#8, 0x54#8, 0x54#8, 0x50#8, 0x2F#8, 0x31#8, 0x2E#8, 0x31#8, 0x20#8, 0x31#8, 0x30#8, 0x31#8,
   0x20#8, 0x53#8, 0x77#8, 0x69#8, 0x74#8, 0x63#8, 0x68#8, 0x69#8, 0x6E#8, 0x67#8, 0x20#8, 0x50#8,
   0x72#8, 0x6F#8, 0x74#8, 0x6F#8, 0x63#8, 0x6F#8, 0x6C#8, 0x73#8, 0x0D#8, 0x0A#8]

/-- `Upgrade: websocket` CR LF, offset 34 (R116). -/
def hsUpgradeLine : List Byte :=
  [0x55#8, 0x70#8, 0x67#8, 0x72#8, 0x61#8, 0x64#8, 0x65#8, 0x3A#8, 0x20#8, 0x77#8, 0x65#8, 0x62#8,
   0x73#8, 0x6F#8, 0x63#8, 0x6B#8, 0x65#8, 0x74#8, 0x0D#8, 0x0A#8]

/-- `Sec-WebSocket-Version: 13` CR LF, offset 54 (R116). -/
def hsVersionLine : List Byte :=
  [0x53#8, 0x65#8, 0x63#8, 0x2D#8, 0x57#8, 0x65#8, 0x62#8, 0x53#8, 0x6F#8, 0x63#8, 0x6B#8, 0x65#8,
   0x74#8, 0x2D#8, 0x56#8, 0x65#8, 0x72#8, 0x73#8, 0x69#8, 0x6F#8, 0x6E#8, 0x3A#8, 0x20#8, 0x31#8,
   0x33#8, 0x0D#8, 0x0A#8]

/-- `Connection: Upgrade` CR LF, offset 81 (R116). -/
def hsConnectionLine : List Byte :=
  [0x43#8, 0x6F#8, 0x6E#8, 0x6E#8, 0x65#8, 0x63#8, 0x74#8, 0x69#8, 0x6F#8, 0x6E#8, 0x3A#8, 0x20#8,
   0x55#8, 0x70#8, 0x67#8, 0x72#8, 0x61#8, 0x64#8, 0x65#8, 0x0D#8, 0x0A#8]

/-- `Sec-WebSocket-Accept: `, offset 102 (R116). -/
def hsAcceptName : List Byte :=
  [0x53#8, 0x65#8, 0x63#8, 0x2D#8, 0x57#8, 0x65#8, 0x62#8, 0x53#8, 0x6F#8, 0x63#8, 0x6B#8, 0x65#8,
   0x74#8, 0x2D#8, 0x41#8, 0x63#8, 0x63#8, 0x65#8, 0x70#8, 0x74#8, 0x3A#8, 0x20#8]

/-- CR LF (R87). -/
def hsCrLf : List Byte := [0x0D#8, 0x0A#8]

/-- The least index at which `needle` stands in a byte string (R111). -/
def findFirst (needle : List Byte) : List Byte → Option Nat
  | [] => if needle.isPrefixOf [] then some 0 else none
  | b :: bs =>
    if needle.isPrefixOf (b :: bs) then some 0
    else (findFirst needle bs).map (· + 1)

/-- SP or HTAB (R113). -/
def isBlank (b : Byte) : Bool := b == 0x20#8 || b == 0x09#8

/-- CR or LF (R113). -/
def isLineEnd (b : Byte) : Bool := b == 0x0D#8 || b == 0x0A#8

/-- A byte string without the run of SP and HTAB at its end (R113). -/
def dropBlankEnd (bs : List Byte) : List Byte := (bs.reverse.dropWhile isBlank).reverse

/-- The key value in the bytes after the needle: leading blanks skipped, up to the first CR or LF, trailing blanks dropped
(R113). -/
def hsValue (rest : List Byte) : List Byte :=
  dropBlankEnd ((rest.dropWhile isBlank).takeWhile (fun b => !isLineEnd b))

/-- The accept text: base64 of SHA-1 of the key value and the GUID (R114). -/
def hsAccept (keyval : List Byte) : List Byte := b64Encode (sha1Hash (keyval ++ hsGuid))

/-- The response (R116). -/
def hsResponse (accept : List Byte) : List Byte :=
  hsStatusLine ++ (hsUpgradeLine ++ (hsVersionLine ++ (hsConnectionLine ++
    (hsAcceptName ++ (accept ++ (hsCrLf ++ hsCrLf))))))

/-- NEGOTIATE (R110, R112). -/
def execNegotiate (s : State) : Host.Outcome State Fault Refusal :=
  .next (s.checkLength
    (match findFirst hsNeedle s.input with
     | none => s.raise .missingKey
     | some p => s.succeed false (hsResponse (hsAccept (hsValue (s.input.drop (p + 18)))))))

end Sys2Proof.Machine
end

