-- ==== Sys2Proof/Machine/Reserved.lean ====
section
/-! DEFINITION. The reserved operation codes: each completes with IllegalCommand (30_encoding R86; 60_exceptions R214). -/

namespace Sys2Proof.Machine

/-- OP = 0 (R86, R214). -/
def execReservedOp0 (_rest : BitVec 28) (s : State) : Host.Outcome State Fault Refusal :=
  .next (s.raise .illegalCommand)

/-- OP = 7 (R86, R214). -/
def execReservedOp7 (_rest : BitVec 28) (s : State) : Host.Outcome State Fault Refusal :=
  .next (s.raise .illegalCommand)

/-- OP = 8 to 15 (R86, R214). -/
def execReservedOp8to15 (_low : BitVec 3) (_rest : BitVec 28) (s : State) : Host.Outcome State Fault Refusal :=
  .next (s.raise .illegalCommand)

end Sys2Proof.Machine
end

