-- ==== Sys2Proof/Machine/Dispatch.lean ====
section
/-! DEFINITION. exec: one arm per row of the opcode table. -/

namespace Sys2Proof.Machine

def exec (i : Instr) (s : State) : Host.Outcome State Fault Refusal :=
  match i with
  | .decode em => Sys2Proof.Machine.execDecode em s
  | .encode mask => Sys2Proof.Machine.execEncode mask s
  | .negotiate => Sys2Proof.Machine.execNegotiate s
  | .maskxor => Sys2Proof.Machine.execMaskxor s
  | .sha1 => Sys2Proof.Machine.execSha1 s
  | .b64enc => Sys2Proof.Machine.execB64enc s
  | .reservedOp0 rest => Sys2Proof.Machine.execReservedOp0 rest s
  | .reservedOp7 rest => Sys2Proof.Machine.execReservedOp7 rest s
  | .reservedOp8_15 low rest => Sys2Proof.Machine.execReservedOp8to15 low rest s
  | .f16u fin rsv opcode => Sys2Proof.Machine.execF16u fin rsv opcode s
  | .f16m fin rsv opcode => Sys2Proof.Machine.execF16m fin rsv opcode s
  | .f64u fin rsv opcode => Sys2Proof.Machine.execF64u fin rsv opcode s
  | .f64m fin rsv opcode => Sys2Proof.Machine.execF64m fin rsv opcode s
  | .f7u fin rsv opcode len7 => Sys2Proof.Machine.execF7u fin rsv opcode len7 s
  | .f7m fin rsv opcode len7 => Sys2Proof.Machine.execF7m fin rsv opcode len7 s
  | .encodeByte0 => Sys2Proof.Machine.execEncodeByte0 s

end Sys2Proof.Machine
end

