-- ==== Sys2Proof/Machine/HostPort.lean ====
section
/-! DEFINITION. The host's accesses to registers and buffers, and the issue of a command (10_state R21, R24, R25, R34, R35; 70_reset_and_hazards R250, R251). -/

namespace Sys2Proof.Machine

/-- The value of the register with index `i`, zero-extended to 64 bits; none for an index that does not exist (R24, R25). -/
def State.register (s : State) (i : Nat) : Option Word64 :=
  match i with
  | 0 => some 0#64
  | 1 => some (s.status.zeroExtend 64)
  | 2 => some s.ilen
  | 3 => some s.olen
  | 4 => some (s.key.zeroExtend 64)
  | 5 => some (s.hdr.zeroExtend 64)
  | 6 => some s.paylen
  | 7 => some s.framelen
  | _ => none

/-- The host's write of the register with index `i`: CMD issues, ILEN and KEY are written, the other registers ignore it; none
for an index that does not exist (R21, R24, R25). -/
def State.setRegister (s : State) (i : Nat) (v : Word64) : Option State :=
  match i with
  | 0 => some (s.issue (v.truncate 32))
  | 1 => some s
  | 2 => some { s with ilen := v }
  | 3 => some s
  | 4 => some { s with key := v.truncate 32 }
  | 5 => some s
  | 6 => some s
  | 7 => some s
  | _ => none

/-- An access that exists only in IDLE: in BUSY it is refused (R250). -/
def State.idleOnly (s : State) (access : Host.Outcome State Fault Refusal) : Host.Outcome State Fault Refusal :=
  if s.busy then .refused .busyAccess else access

/-- A read of a register: in BUSY only STATUS may be read (R21 step 1, R250). -/
def hostReadReg (i : Nat) (s : State) : Host.Outcome State Fault Refusal :=
  if s.busy = true ∧ i ≠ 1 then .refused .busyAccess
  else
    match s.register i with
    | some v => .next { s with readData := some v }
    | none => .refused .noSuchRegister

/-- A write of a register (R21 steps 1 and 2, R250). -/
def hostWriteReg (i : Nat) (v : Word64) (s : State) : Host.Outcome State Fault Refusal :=
  s.idleOnly
    (match s.setRegister i v with
     | some t => .next t
     | none => .refused .noSuchRegister)

/-- A read of a byte of IBUF (R34, R50). -/
def hostReadIbuf (i : Nat) (s : State) : Host.Outcome State Fault Refusal :=
  s.idleOnly
    (if i < s.cfg.ibufSize then .next { s with readData := some ((s.ibufByte i).zeroExtend 64) }
     else .refused .noSuchByte)

/-- A write of a byte of IBUF (R34, R50). -/
def hostWriteIbuf (i : Nat) (b : Byte) (s : State) : Host.Outcome State Fault Refusal :=
  s.idleOnly
    (if i < s.cfg.ibufSize then .next { s with ibuf := s.ibuf.write i b } else .refused .noSuchByte)

/-- A read of a byte of OBUF (R35, R50). -/
def hostReadObuf (i : Nat) (s : State) : Host.Outcome State Fault Refusal :=
  s.idleOnly
    (if i < s.cfg.obufSize then .next { s with readData := some ((s.obufByte i).zeroExtend 64) }
     else .refused .noSuchByte)

/-- A write of a byte of OBUF, which is ignored (R35, R50). -/
def hostWriteObuf (i : Nat) (_b : Byte) (s : State) : Host.Outcome State Fault Refusal :=
  s.idleOnly (if i < s.cfg.obufSize then .next s else .refused .noSuchByte)

end Sys2Proof.Machine
end

