-- ==== Sys2Proof/Machine/Turn.lean ====
section
/-! DEFINITION. The block's turn and the taking of one move (10_state R21; 30_encoding R86; 60_exceptions R214). -/

namespace Sys2Proof.Machine

/-- The completion of a latched word: the instruction it decodes to runs; a word the decoder rejects completes with
IllegalCommand (R21 step 3, R86, R214). -/
def runCommand (w : Word32) (s : State) : Host.Outcome State Fault Refusal :=
  match decode (.command w) with
  | .ok i => exec i s
  | .error _ => .next (s.raise .illegalCommand)

/-- The block's turn: completion in BUSY, nothing in IDLE (R21 step 3, R226). -/
def blockTurn (s : State) : Host.Outcome State Fault Refusal :=
  match s.busy, s.latched with
  | true, some w => runCommand w s
  | _, _ => .next s

/-- One move of the transition system (R21, R251). -/
def takeMove (m : Move) (s : State) : Host.Outcome State Fault Refusal :=
  match m with
  | .blockTurn => blockTurn s
  | .assertReset => .next s.resetEvent
  | .readReg i => hostReadReg i s
  | .writeReg i v => hostWriteReg i v s
  | .readIbuf i => hostReadIbuf i s
  | .writeIbuf i b => hostWriteIbuf i b s
  | .readObuf i => hostReadObuf i s
  | .writeObuf i b => hostWriteObuf i b s

/-- The next move to take and the state without it: the first of `moves`; the block's turn when none is left, since completion
is always enabled in BUSY (R256; log 3). -/
def nextMove (s : State) : Move × State :=
  match s.moves with
  | [] => (.blockTurn, s)
  | m :: rest => (m, { s with moves := rest })

/-- `s` with command word `w` issued and the block's turn next: the state in which the next step runs `w`. -/
def State.placeCommand (s : State) (w : Word32) : State :=
  { s.issue w with moves := .blockTurn :: s.moves }

/-- `s` with an unmasked-expecting DECODE issued, the header bytes given followed by zeros in IBUF, ILEN 139 (the widest F7M, so
that every format finds its header, key and payload), the block's turn next (log 9). -/
def State.placeHeader (s : State) (byte0 byte1 : Byte) : State :=
  { s.placeCommand (commandWord 1#4 false) with
    ibuf := Memory.ofBytes (byte0 :: byte1 :: List.replicate 137 0#8)
    ilen := 139#64 }

end Sys2Proof.Machine
end

