-- ==== Sys2Proof/Machine/Step.lean ====
section
/-! DEFINITION. One step: the next move is taken (10_state R21); and how an opcode-table word is placed so that the next step runs it (log 9). -/

namespace Sys2Proof.Machine

/-- One step of the transition system (R21). -/
def step (s : State) : Host.Outcome State Fault Refusal :=
  takeMove (nextMove s).1 (nextMove s).2

/-- The state whose very next step runs the opcode-table word `w` of `nbits` bits: a command word is issued; a frame header is
placed at IBUF[0] under a DECODE; the emitted byte 0 is that of an ENCODE (log 9). -/
def State.withFetchWord (s : State) (nbits w : Nat) : State :=
  match nbits with
  | 16 => s.placeHeader (BitVec.ofNat 8 (w / 256)) (BitVec.ofNat 8 w)
  | 8 => s.placeCommand (commandWord 2#4 false)
  | _ => s.placeCommand (BitVec.ofNat 32 w)

end Sys2Proof.Machine
end

