-- ==== Sys2Proof/Safety.lean ====
section
/-! DEFINITION. The terms claims use: the invariant of a run, what a completion leaves, the frame, and the spec's own arithmetic of headers and lengths written apart from the meanings. -/

namespace Sys2Proof.Machine

/-- `IBUF[0 .. ILEN)` as a byte string (R10). -/
def State.inBytes (s : State) : List Byte := (List.range s.inLen).map s.ibufByte

/-- `OBUF[0 .. OLEN)` as a byte string (R10, R28). -/
def State.outBytes (s : State) : List Byte := (List.range s.olen.toNat).map s.obufByte

/-- 1 or 0. -/
def bit (b : Bool) : Nat := if b then 1 else 0

/-- STATUS after a completion, as a number (R26), the latch empty, OLEN `n` (R215, R216). -/
def State.Completed (t : State) (err : Nat) (mm : Bool) (n : Nat) : Prop :=
  t.status.toNat = 2 + 4 * bit mm + 16 * err ∧ t.latched = none ∧ t.olen.toNat = n

/-- What no operation writes: the parameters, ILEN and every byte of IBUF (R33), and the model's moves and last host read. -/
def State.SameInput (s t : State) : Prop :=
  t.cfg = s.cfg ∧ t.ilen = s.ilen ∧ t.ibuf = s.ibuf ∧ (∀ i, t.ibufByte i = s.ibufByte i) ∧
    t.moves = s.moves ∧ t.readData = s.readData

/-- KEY, HDR, PAYLEN and FRAMELEN are as they were. -/
def State.SameHeaderRegs (s t : State) : Prop :=
  t.key = s.key ∧ t.hdr = s.hdr ∧ t.paylen = s.paylen ∧ t.framelen = s.framelen

/-- A completion with error code `code` (R216). -/
def State.FailedWith (s t : State) (code : Nat) : Prop :=
  t.Completed code false 0 ∧ s.SameInput t

/-- The reserved bits of HDR read 0 (R30). -/
def State.HdrReservedZero (t : State) : Prop := t.hdr &&& 0xFFFFFF0C#32 = 0#32

/-- The conditions of R86 on the command word itself, on its numeric value: OP is 0 or 7 to 15, or a bit of 7:4 or 31:9 is 1,
or FLAG is 1 with OP 3 to 6. -/
def IllegalWord (w : Word32) : Prop :=
  w.toNat % 16 = 0 ∨ 7 ≤ w.toNat % 16 ∨ w.toNat / 16 % 16 ≠ 0 ∨ w.toNat / 512 ≠ 0 ∨
    (w.toNat / 256 % 2 = 1 ∧ 3 ≤ w.toNat % 16)

/-- The block is in BUSY with word `w` latched and its turn is the next move, `rest` the moves after it (R21). -/
def State.TurnWith (s : State) (w : Word32) (rest : List Move) : Prop :=
  s.busy = true ∧ s.latched = some w ∧ (s.moves = .blockTurn :: rest ∨ (s.moves = [] ∧ rest = []))

/-- `len7` of the frame at IBUF[0] (R72). -/
def State.specLen7 (s : State) : Nat := (s.ibufByte 1).toNat % 128

/-- `masked` of the frame at IBUF[0] (R72). -/
def State.specMasked (s : State) : Bool := 128 ≤ (s.ibufByte 1).toNat

/-- `fin` of the frame at IBUF[0] (R71). -/
def State.specFin (s : State) : Bool := 128 ≤ (s.ibufByte 0).toNat

/-- `opcode` of the frame at IBUF[0] (R71). -/
def State.specOpcode (s : State) : Nat := (s.ibufByte 0).toNat % 16

/-- `hdrw` of R73. -/
def State.specHdrw (s : State) : Nat :=
  if s.specLen7 ≤ 125 then 2 else if s.specLen7 = 126 then 4 else 10

/-- The 16-bit extended length (R74). -/
def State.specLen16 (s : State) : Nat := (s.ibufByte 2).toNat * 2 ^ 8 + (s.ibufByte 3).toNat

/-- The 64-bit extended length (R74). -/
def State.specLen64 (s : State) : Nat :=
  (s.ibufByte 2).toNat * 2 ^ 56 + (s.ibufByte 3).toNat * 2 ^ 48 + (s.ibufByte 4).toNat * 2 ^ 40 +
    (s.ibufByte 5).toNat * 2 ^ 32 + (s.ibufByte 6).toNat * 2 ^ 24 + (s.ibufByte 7).toNat * 2 ^ 16 +
    (s.ibufByte 8).toNat * 2 ^ 8 + (s.ibufByte 9).toNat

/-- `plen` of R73 and R74. -/
def State.specPlen (s : State) : Nat :=
  if s.specLen7 ≤ 125 then s.specLen7 else if s.specLen7 = 126 then s.specLen16 else s.specLen64

/-- `keyw` of R75. -/
def specKeyw (masked : Bool) : Nat := if masked then 4 else 0

/-- Every check of DECODE passes for a frame with this header width and length (R160). -/
def State.FrameFits (s : State) (masked : Bool) (hdrw plen : Nat) : Prop :=
  s.inLen ≤ s.cfg.ibufSize ∧ plen ≤ s.cfg.maxPayload ∧ hdrw + specKeyw masked + plen ≤ s.inLen

/-- What a successful DECODE leaves in `t`, started in `s` (R160, R168 to R171): STATUS, OLEN, OBUF, HDR, PAYLEN, FRAMELEN, KEY. -/
def State.DecodedAs (s t : State) (expectMasked fin masked : Bool) (opcode hdrw plen : Nat) : Prop :=
  t.Completed 0 (masked != expectMasked) plen ∧
  (∀ i, i < plen → t.obufByte i =
    if masked then s.ibufByte (hdrw + 4 + i) ^^^ s.ibufByte (hdrw + i % 4) else s.ibufByte (hdrw + i)) ∧
  t.hdr.toNat = bit fin + 2 * bit masked + 16 * opcode ∧
  t.paylen.toNat = plen ∧
  t.framelen.toNat = hdrw + specKeyw masked + plen ∧
  (masked = true → t.key.toNat = (s.ibufByte hdrw).toNat * 2 ^ 24 + (s.ibufByte (hdrw + 1)).toNat * 2 ^ 16 +
    (s.ibufByte (hdrw + 2)).toNat * 2 ^ 8 + (s.ibufByte (hdrw + 3)).toNat) ∧
  (masked = false → t.key = s.key) ∧
  s.SameInput t

/-- A DECODE, as `run` performs it from `s`, ends with error code `code`; HDR's reserved bits still read 0 (R176). -/
def State.DecodeEndsWith (s : State) (run : Host.Outcome State Fault Refusal) (code : Nat) : Prop :=
  ∃ t, run = .next t ∧ s.FailedWith t code ∧ t.HdrReservedZero

/-- A DECODE of a frame of this header width and length, as `run` performs it, ends with the error that R177's table gives, in the
table's order. -/
def State.DecodeFails (s : State) (run : Host.Outcome State Fault Refusal) (masked : Bool) (hdrw plen : Nat) : Prop :=
  s.inLen ≤ s.cfg.ibufSize →
    (s.inLen < 2 → s.DecodeEndsWith run 2) ∧
    (2 ≤ s.inLen → s.inLen < hdrw → s.DecodeEndsWith run 4) ∧
    (2 ≤ s.inLen → hdrw ≤ s.inLen → s.cfg.maxPayload < plen → s.DecodeEndsWith run 5) ∧
    (2 ≤ s.inLen → hdrw ≤ s.inLen → plen ≤ s.cfg.maxPayload → masked = true → s.inLen < hdrw + 4 →
      s.DecodeEndsWith run 3) ∧
    (2 ≤ s.inLen → hdrw + specKeyw masked ≤ s.inLen → plen ≤ s.cfg.maxPayload →
      s.inLen < hdrw + specKeyw masked + plen → s.DecodeEndsWith run 4)

/-- `hdrw` of an encoded frame of `n` payload bytes (R193). -/
def encHdrw (n : Nat) : Nat := if n < 126 then 2 else if n ≤ 65535 then 4 else 10

/-- `len7` of an encoded frame of `n` payload bytes (R193). -/
def encLen7 (n : Nat) : Nat := if n < 126 then n else if n ≤ 65535 then 126 else 127

/-- What a successful ENCODE leaves in `t`, started in `s` with `n` payload bytes and drawn value `r` (R190, R192 to R198). -/
def State.EncodedAs (s t : State) (mask : Bool) (r : Word32) : Prop :=
  let n := s.inLen
  let pos := encHdrw n + specKeyw mask
  t.Completed 0 false (pos + n) ∧
  t.obufByte 0 = 0x81#8 ∧
  (t.obufByte 1).toNat = 128 * bit mask + encLen7 n ∧
  (∀ j, j < encHdrw n - 2 → (t.obufByte (2 + j)).toNat = n / 256 ^ (encHdrw n - 3 - j) % 256) ∧
  (mask = true → ∀ j, j < 4 → (t.obufByte (encHdrw n + j)).toNat = r.toNat / 256 ^ (3 - j) % 256) ∧
  (∀ i, i < n → t.obufByte (pos + i) =
    if mask then s.ibufByte i ^^^ BitVec.ofNat 8 (r.toNat / 256 ^ (3 - i % 4)) else s.ibufByte i) ∧
  t.hdr = (if mask then 0x00000013#32 else 0x00000011#32) ∧
  t.paylen.toNat = n ∧
  t.framelen.toNat = pos + n ∧
  t.key = (if mask then r else s.key) ∧
  s.SameInput t

/-- The ASCII bytes of a text (R87, R144). -/
def asciiBytes (text : String) : List Byte := text.toList.map (fun c => BitVec.ofNat 8 c.toNat)

/-- The character with index `i` of the alphabet of R144. -/
def specB64Char (i : Nat) : Byte :=
  (asciiBytes "ABCDEFGHIJKLMNOPQRSTUVWXYZabcdefghijklmnopqrstuvwxyz0123456789+/").getD i 0#8

/-- The number `v` of a group of three bytes, the first the most significant (R142). -/
def specB64Number (x0 x1 x2 : Byte) : Nat := x0.toNat * 65536 + x1.toNat * 256 + x2.toNat

/-- `f_t` of R134, as its table has it. -/
def specSha1F (t : Nat) (b c d : Word32) : Word32 :=
  if t ≤ 19 then (b &&& c) ||| (~~~b &&& d)
  else if t ≤ 39 then b ^^^ c ^^^ d
  else if t ≤ 59 then (b &&& c) ||| (b &&& d) ||| (c &&& d)
  else b ^^^ c ^^^ d

/-- `K_t` of R134, as its table has it. -/
def specSha1K (t : Nat) : Nat :=
  if t ≤ 19 then 0x5A827999 else if t ≤ 39 then 0x6ED9EBA1 else if t ≤ 59 then 0x8F1BBCDC else 0xCA62C1D6

/-- The words of a hash value in order, H0 to H4, as numbers (R135, R137). -/
def Hash5.numbers (h : Hash5) : List Nat := [h.a.toNat, h.b.toNat, h.c.toNat, h.d.toNat, h.e.toNat]

/-- `r` is what round `t` with schedule word `w` makes of the working variables `h` (R136). -/
def Hash5.RoundTo (h : Hash5) (t : Nat) (w : Word32) (r : Hash5) : Prop :=
  r.a.toNat = ((h.a.rotateLeft 5).toNat + (specSha1F t h.b h.c h.d).toNat + h.e.toNat + specSha1K t + w.toNat) % 2 ^ 32 ∧
    r.b = h.a ∧ r.c = h.b.rotateLeft 30 ∧ r.d = h.c ∧ r.e = h.d

/-- The instructions whose success writes HDR, PAYLEN and FRAMELEN: DECODE, ENCODE and the rows that are their parts (R33). -/
def codecInstr : Instr → Bool
  | .decode _ => true
  | .encode _ => true
  | .negotiate => false
  | .maskxor => false
  | .sha1 => false
  | .b64enc => false
  | .reservedOp0 _ => false
  | .reservedOp7 _ => false
  | .reservedOp8_15 _ _ => false
  | .f16u _ _ _ => true
  | .f16m _ _ _ => true
  | .f64u _ _ _ => true
  | .f64m _ _ _ => true
  | .f7u _ _ _ _ => true
  | .f7m _ _ _ _ => true
  | .encodeByte0 => true

/-- The instructions that are reserved operation codes (R86). -/
def reservedInstr : Instr → Bool
  | .decode _ => false
  | .encode _ => false
  | .negotiate => false
  | .maskxor => false
  | .sha1 => false
  | .b64enc => false
  | .reservedOp0 _ => true
  | .reservedOp7 _ => true
  | .reservedOp8_15 _ _ => true
  | .f16u _ _ _ => false
  | .f16m _ _ _ => false
  | .f64u _ _ _ => false
  | .f64m _ _ _ => false
  | .f7u _ _ _ _ => false
  | .f7m _ _ _ _ => false
  | .encodeByte0 => false

/-- STATUS is a value the spec allows: the reserved bits 0, BUSY and DONE not both 1, ERR at most 6, MM and ERR set only with
DONE, MM only with ERR 0 (R26). -/
abbrev State.StatusOk (s : State) : Prop :=
  s.status &&& 0xFFFFFF08#32 = 0#32 ∧
  ¬(statusBusy s.status = true ∧ statusDone s.status = true) ∧
  (statusErr s.status).toNat ≤ 6 ∧
  (statusMm s.status = true → statusDone s.status = true ∧ statusErr s.status = 0#4) ∧
  (statusErr s.status ≠ 0#4 → statusDone s.status = true)

/-- A safe run's invariant: legal parameters (R6), STATUS and HDR as they may read (R26, R30), a command latched exactly in BUSY
(R20), both buffers in canonical form, IBUF's bytes below IBUF_SIZE (R34), OBUF's written bytes below OLEN and OLEN at most
OBUF_SIZE (R28, R57). -/
abbrev State.Inv (s : State) : Prop :=
  s.cfg.Legal ∧
  s.StatusOk ∧
  s.hdr &&& 0xFFFFFF0C#32 = 0#32 ∧
  s.latched.isSome = s.busy ∧
  s.ibuf.wf ∧ (∀ c ∈ s.ibuf, c.1 < s.cfg.ibufSize) ∧
  s.obuf.wf ∧ (∀ c ∈ s.obuf, c.1 < s.olen.toNat) ∧
  s.olen.toNat ≤ s.cfg.obufSize

/-- The mnemonic of the opcode-table row an instruction stands for. -/
def tableRow : Instr → String
  | .decode _ => "DECODE"
  | .encode _ => "ENCODE"
  | .negotiate => "NEGOTIATE"
  | .maskxor => "MASKXOR"
  | .sha1 => "SHA1"
  | .b64enc => "B64ENC"
  | .reservedOp0 _ => "RESERVED_OP0"
  | .reservedOp7 _ => "RESERVED_OP7"
  | .reservedOp8_15 _ _ => "RESERVED_OP8_15"
  | .f16u _ _ _ => "F16U"
  | .f16m _ _ _ => "F16M"
  | .f64u _ _ _ => "F64U"
  | .f64m _ _ _ => "F64M"
  | .f7u _ _ _ _ => "F7U"
  | .f7m _ _ _ _ => "F7M"
  | .encodeByte0 => "ENCODE_BYTE0"

end Sys2Proof.Machine
end

