-- ==== Sys2Proof/Certificates/Slice0/Obligations.lean ====
section
/-! DEFINITION. The statements for the provers. Each docstring names the rules of spec/ it formalises; OBLIGATIONS.json lists them. -/

open Sys2Proof Sys2Proof.Machine

/-! ## Encodings -/

/-- R84: the eight words of the table decode to the six operations, and no other word does. -/
def Obligations.LegalCommandWordsAreExactlyEight : Prop :=
  ∀ (w : Word32) (i : Instr),
    (decode (.command w) = .ok i ∧ reservedInstr i = false) ↔
      ((w = 0x00000001#32 ∧ i = .decode false) ∨ (w = 0x00000101#32 ∧ i = .decode true) ∨
       (w = 0x00000002#32 ∧ i = .encode false) ∨ (w = 0x00000102#32 ∧ i = .encode true) ∨
       (w = 0x00000003#32 ∧ i = .negotiate) ∨ (w = 0x00000004#32 ∧ i = .maskxor) ∨
       (w = 0x00000005#32 ∧ i = .sha1) ∨ (w = 0x00000006#32 ∧ i = .b64enc))

/-- R71, R72, R75, R83 to R86, R192: decoding the encoding of a well-formed instruction gives it back, for every instruction and
every value of its operands. -/
def Obligations.DecodeOfEncodeIsTheInstruction : Prop :=
  ∀ i : Instr, i.wellFormed = true → decode (encode i) = .ok i

/-- R71, R72, R75, R83 to R86, R192: what the decoder accepts, it accepts as a well-formed instruction whose encoding is the code
read, so that no bit of a code is dropped. -/
def Obligations.EncodeOfDecodeIsTheCode : Prop :=
  ∀ (c : Code) (i : Instr), decode c = .ok i → encode i = c ∧ i.wellFormed = true

/-- R71, R72, R75, R84, R86, R192: a few words written out from the spec's encodings. -/
def Obligations.SpecWordsDecodeAsWritten : Prop :=
  decodeTableWord 32 0x00000101 = some (.decode true) ∧
  decodeTableWord 32 0x00000002 = some (.encode false) ∧
  decodeTableWord 32 0x00000003 = some .negotiate ∧
  decodeTableWord 32 0x0000000F = some (.reservedOp8_15 7#3 0#28) ∧
  decodeTableWord 32 0x00000011 = none ∧
  decodeTableWord 16 0xF183 = some (.f7m true 7#3 1#4 3#7) ∧
  decodeTableWord 16 0x0900 = some (.f7u false 0#3 9#4 0#7) ∧
  decodeTableWord 16 0x817E = some (.f16u true 0#3 1#4) ∧
  decodeTableWord 16 0x81FF = some (.f64m true 0#3 1#4) ∧
  decodeTableWord 8 0x81 = some .encodeByte0

/-- R75: byte 1 alone selects the format, each value of it exactly one, whatever byte 0 is. -/
def Obligations.HeaderBytesSelectOneFormat : Prop :=
  ∀ b0 b1 : Byte,
    decode (.header b0 b1) = .ok (decodeHeader b0 b1) ∧
    (b1.toNat ≤ 125 → tableRow (decodeHeader b0 b1) = "F7U") ∧
    (b1.toNat = 126 → tableRow (decodeHeader b0 b1) = "F16U") ∧
    (b1.toNat = 127 → tableRow (decodeHeader b0 b1) = "F64U") ∧
    (128 ≤ b1.toNat → b1.toNat ≤ 253 → tableRow (decodeHeader b0 b1) = "F7M") ∧
    (b1.toNat = 254 → tableRow (decodeHeader b0 b1) = "F16M") ∧
    (b1.toNat = 255 → tableRow (decodeHeader b0 b1) = "F64M")

/-! ## The step, the host's moves, reset -/

/-- R21 step 3: in BUSY, on the block's turn, the step is exec of the instruction the latched word decodes to, the move taken off
the list (the list of moves is the model's, log 3). -/
def Obligations.StepRunsTheDecodedInstruction : Prop :=
  ∀ (s : State) (w : Word32) (rest : List Move) (i : Instr),
    s.TurnWith w rest → decode (.command w) = .ok i → step s = exec i { s with moves := rest }

/-- R86, R214: IllegalCommand in full. -/
def Obligations.IllegalCommandInFull : Prop :=
  ∀ (s : State) (w : Word32) (rest : List Move),
    s.TurnWith w rest → (IllegalWord w ∨ s.cfg.ibufSize < s.inLen) →
      ∃ t, step s = .next t ∧ State.FailedWith { s with moves := rest } t 6 ∧ s.SameHeaderRegs t

/-- R86, R214: the reserved operation codes complete with IllegalCommand, with every value of their other bits. -/
def Obligations.ReservedRowsCompleteWithIllegalCommand : Prop :=
  ∀ (s : State) (rest : BitVec 28) (low : BitVec 3) (i : Instr),
    (i = .reservedOp0 rest ∨ i = .reservedOp7 rest ∨ i = .reservedOp8_15 low rest) →
      ∃ t, exec i s = .next t ∧ s.FailedWith t 6 ∧ s.SameHeaderRegs t

/-- R75, R160 (the reading of the header rows is the model's, log 7): DECODE does what the row of the header at IBUF[0] and IBUF[1]
does. -/
def Obligations.DecodeRunsItsHeaderFormat : Prop :=
  ∀ s : State, exec (.decode s.flag) s = exec (decodeHeader (s.ibufByte 0) (s.ibufByte 1)) s

/-- R21 step 2, R25: a write of CMD in IDLE latches the word, sets BUSY, clears DONE, ERR and MM, and changes nothing else. -/
def Obligations.CmdWriteIssues : Prop :=
  ∀ (s : State) (w : Word32) (rest : List Move),
    s.busy = false → s.moves = .writeReg 0 (w.zeroExtend 64) :: rest →
      step s = .next { s with status := 0x00000001#32, latched := some w, moves := rest }

/-- R21 step 1, R24, R25, R26: a read of a register in IDLE returns it, CMD reading as 0, and changes nothing else. -/
def Obligations.RegisterReadsInIdle : Prop :=
  ∀ (s : State) (i : Nat) (rest : List Move), s.busy = false → s.moves = .readReg i :: rest → i < 8 →
    ∃ v : Word64, step s = .next { s with moves := rest, readData := some v } ∧
      (i = 0 → v.toNat = 0) ∧ (i = 1 → v.toNat = s.status.toNat) ∧ (i = 2 → v = s.ilen) ∧
      (i = 3 → v = s.olen) ∧ (i = 4 → v.toNat = s.key.toNat) ∧ (i = 5 → v.toNat = s.hdr.toNat) ∧
      (i = 6 → v = s.paylen) ∧ (i = 7 → v = s.framelen)

/-- R21 step 1, R24, R27, R29: a write of ILEN or KEY in IDLE writes that register, a write of a read-only register is ignored. -/
def Obligations.RegisterWritesInIdle : Prop :=
  ∀ (s : State) (i : Nat) (v : Word64) (rest : List Move),
    s.busy = false → s.moves = .writeReg i v :: rest →
      (i = 2 → step s = .next { s with moves := rest, ilen := v }) ∧
      (i = 4 → step s = .next { s with moves := rest, key := v.truncate 32 }) ∧
      (i = 1 ∨ i = 3 ∨ i = 5 ∨ i = 6 ∨ i = 7 → step s = .next { s with moves := rest })

/-- R21 step 1, R34: a write of a byte of IBUF in IDLE writes that byte and no other, and no other state. -/
def Obligations.IbufWriteWritesOneByte : Prop :=
  ∀ (s : State) (i : Nat) (b : Byte) (rest : List Move),
    s.busy = false → s.moves = .writeIbuf i b :: rest → i < s.cfg.ibufSize →
      ∃ t, step s = .next t ∧ t.ibufByte i = b ∧ (∀ j, j ≠ i → t.ibufByte j = s.ibufByte j) ∧
        { t with ibuf := s.ibuf } = { s with moves := rest }

/-- R21 step 1, R34, R35, R58: reads of buffer bytes in IDLE return the byte and change nothing, so the same read again returns the
same byte; a write of OBUF is ignored. -/
def Obligations.BufferReadsAndObufWritesInIdle : Prop :=
  ∀ (s : State) (i : Nat) (b : Byte) (rest : List Move), s.busy = false →
    (s.moves = .readIbuf i :: rest → i < s.cfg.ibufSize →
      ∃ v : Word64, step s = .next { s with moves := rest, readData := some v } ∧ v.toNat = (s.ibufByte i).toNat) ∧
    (s.moves = .readObuf i :: rest → i < s.cfg.obufSize →
      ∃ v : Word64, step s = .next { s with moves := rest, readData := some v } ∧ v.toNat = (s.obufByte i).toNat) ∧
    (s.moves = .writeObuf i b :: rest → i < s.cfg.obufSize → step s = .next { s with moves := rest })

/-- R250, R26: in BUSY a read of STATUS returns it (0x00000001 wherever the invariant holds) and changes nothing; every other host
access is refused. -/
def Obligations.BusyAccessIsRefused : Prop :=
  ∀ (s : State) (m : Move) (rest : List Move), s.busy = true → s.moves = m :: rest →
    (m = .readReg 1 → ∃ v : Word64, step s = .next { s with moves := rest, readData := some v } ∧
      v.toNat = s.status.toNat ∧ (s.Inv → v = 0x1#64)) ∧
    (m ≠ .readReg 1 → m ≠ .blockTurn → m ≠ .assertReset → step s = .refused .busyAccess)

/-- R24, R50 (93_implementation_defined U8, U9): in IDLE an access to a register index of 8 or more, or to a buffer index at or
above the buffer's size, is refused. -/
def Obligations.AbsentRegisterOrByteIsRefused : Prop :=
  ∀ (s : State) (i : Nat) (v : Word64) (b : Byte) (rest : List Move), s.busy = false →
    (8 ≤ i → s.moves = .readReg i :: rest ∨ s.moves = .writeReg i v :: rest → step s = .refused .noSuchRegister) ∧
    (s.cfg.ibufSize ≤ i → s.moves = .readIbuf i :: rest ∨ s.moves = .writeIbuf i b :: rest →
      step s = .refused .noSuchByte) ∧
    (s.cfg.obufSize ≤ i → s.moves = .readObuf i :: rest ∨ s.moves = .writeObuf i b :: rest →
      step s = .refused .noSuchByte)

/-- R40, R240: the reset event, in any phase, puts every register at its reset value, abandons a command in progress, and leaves
no byte of either buffer written; the parameters stay. -/
def Obligations.ResetEventGivesTheResetTable : Prop :=
  ∀ (s : State) (rest : List Move), s.moves = .assertReset :: rest →
    ∃ t, step s = .next t ∧ t.busy = false ∧ t.status = 0#32 ∧ t.latched = none ∧ t.ilen = 0#64 ∧ t.olen = 0#64 ∧
      t.key = 0#32 ∧ t.hdr = 0#32 ∧ t.paylen = 0#64 ∧ t.framelen = 0#64 ∧ t.donePin = false ∧
      (∀ i, t.ibuf.read i = none ∧ t.obuf.read i = none) ∧ t.cfg = s.cfg ∧ t.moves = rest

/-- R40: the values the spec gives after reset. -/
def Obligations.ResetStateIsTheResetTable : Prop :=
  State.reset.busy = false ∧ State.reset.status = 0#32 ∧ State.reset.latched = none ∧ State.reset.ilen = 0#64 ∧
    State.reset.olen = 0#64 ∧ State.reset.key = 0#32 ∧ State.reset.hdr = 0#32 ∧ State.reset.paylen = 0#64 ∧
    State.reset.framelen = 0#64 ∧ State.reset.donePin = false ∧
    (∀ i, State.reset.ibuf.read i = none ∧ State.reset.obuf.read i = none)

/-! ## MASKXOR -/

/-- R100, R103: MASKXOR's result, its frame. -/
def Obligations.MaskxorResult : Prop :=
  ∀ s : State, s.inLen ≤ s.cfg.ibufSize → s.inLen ≤ s.cfg.obufSize →
    ∃ t, exec .maskxor s = .next t ∧ t.Completed 0 false s.inLen ∧
      (∀ i, i < s.inLen →
        t.obufByte i = s.ibufByte i ^^^ BitVec.ofNat 8 (s.key.toNat / 256 ^ (3 - i % 4))) ∧
      s.SameInput t ∧ s.SameHeaderRegs t

/-- R104: MASKXOR raises PayloadTooLarge (code 5) when ILEN > OBUF_SIZE; where IBUF_SIZE is at most OBUF_SIZE it never does. -/
def Obligations.MaskxorTooLarge : Prop :=
  ∀ s : State, ∃ t, exec .maskxor s = .next t ∧
    (s.inLen ≤ s.cfg.ibufSize → s.cfg.obufSize < s.inLen → s.FailedWith t 5 ∧ s.SameHeaderRegs t) ∧
    (s.cfg.ibufSize ≤ s.cfg.obufSize → statusErr t.status ≠ 5#4)

/-- R101: the transform is its own inverse. -/
def Obligations.MaskIsSelfInverse : Prop :=
  ∀ (key : Word32) (p : List Byte), maskBytes key (maskBytes key p) = p

/-! ## SHA1 and B64ENC -/

/-- R130, R138: SHA1's result, its frame; the digest itself is pinned by Sha1DigestOfAMessage and the statements about padding,
words, schedule and compression. -/
def Obligations.Sha1Result : Prop :=
  ∀ s : State, s.inLen ≤ s.cfg.ibufSize →
    ∃ t, exec .sha1 s = .next t ∧ t.Completed 0 false 20 ∧ t.outBytes = sha1Hash s.inBytes ∧
      s.SameInput t ∧ s.SameHeaderRegs t

/-- R131: the padded message is the message, 0x80, zero bytes, the big-endian 64-bit length in bits, and its length is
64 * (floor((L + 8) / 64) + 1). -/
def Obligations.Sha1PaddedMessage : Prop :=
  ∀ m : List Byte, 8 * m.length < 2 ^ 64 →
    (sha1Pad m).length = 64 * ((m.length + 8) / 64 + 1) ∧
    (sha1Pad m).take m.length = m ∧
    (sha1Pad m)[m.length]? = some 0x80#8 ∧
    (∀ i, m.length < i → i + 8 < (sha1Pad m).length → (sha1Pad m)[i]? = some 0#8) ∧
    bytesToNat ((sha1Pad m).drop ((sha1Pad m).length - 8)) = 8 * m.length

/-- R133: the schedule of a block of 16 words. -/
def Obligations.Sha1ScheduleOfABlock : Prop :=
  ∀ block : List Word32, block.length = 16 →
    (sha1Schedule block).length = 80 ∧
    (∀ t, t < 16 → wordAt (sha1Schedule block) t = wordAt block t) ∧
    (∀ t, 16 ≤ t → t < 80 → wordAt (sha1Schedule block) t =
      (wordAt (sha1Schedule block) (t - 3) ^^^ wordAt (sha1Schedule block) (t - 8) ^^^
        wordAt (sha1Schedule block) (t - 14) ^^^ wordAt (sha1Schedule block) (t - 16)).rotateLeft 1)

/-- R132: word t of a message is its bytes 4t to 4t + 3, the first the most significant. -/
def Obligations.Sha1WordsAreBigEndian : Prop :=
  ∀ (m : List Byte) (t : Nat), 4 * t + 4 ≤ m.length →
    (wordAt (sha1Words m) t).toNat = bytesToNat ((m.drop (4 * t)).take 4)

/-- R134, R136: one round: the function and the constant of the table, sums modulo 2^32, the five assignments. -/
def Obligations.Sha1RoundAsInTheTable : Prop :=
  ∀ (t : Nat) (w : Word32) (h : Hash5), t < 80 → h.RoundTo t w (sha1Round t w h)

/-- R133, R134, R136: the compression of a block of 16 words: 80 rounds over its schedule from the hash value, the result added to it
modulo 2^32. -/
def Obligations.Sha1CompressionOfABlock : Prop :=
  ∀ (block : List Word32) (h : Hash5), block.length = 16 →
    ∃ v : Nat → Hash5, v 0 = h ∧
      (∀ t, t < 80 → (v t).RoundTo t (wordAt (sha1Schedule block) t) (v (t + 1))) ∧
      (sha1Compress block h).numbers = List.zipWith (fun x y => (x + y) % 2 ^ 32) h.numbers (v 80).numbers

/-- R131, R132, R135 to R137: the digest of a message: the initial hash value, the compression of the blocks of 16 words of the padded
message in order, the words H0 to H4 of the last hash value written big-endian. -/
def Obligations.Sha1DigestOfAMessage : Prop :=
  ∀ m : List Byte, 8 * m.length < 2 ^ 64 →
    ∃ v : Nat → Hash5,
      (v 0).numbers = [0x67452301, 0xEFCDAB89, 0x98BADCFE, 0x10325476, 0xC3D2E1F0] ∧
      (∀ j, j < (m.length + 8) / 64 + 1 →
        ((((sha1Words (sha1Pad m)).drop (16 * j)).take 16).length = 16 ∧
          v (j + 1) = sha1Compress (((sha1Words (sha1Pad m)).drop (16 * j)).take 16) (v j))) ∧
      (sha1Hash m).length = 20 ∧
      ∀ k i, k < 5 → i < 4 →
        ((sha1Hash m).getD (4 * k + i) 0#8).toNat =
          ((v ((m.length + 8) / 64 + 1)).numbers.getD k 0) / 256 ^ (3 - i) % 256

/-- R140: B64ENC's result, its frame. -/
def Obligations.Base64Result : Prop :=
  ∀ s : State, s.cfg.Legal → s.inLen ≤ s.cfg.ibufSize → 4 * ((s.inLen + 2) / 3) ≤ s.cfg.obufSize →
    ∃ t, exec .b64enc s = .next t ∧ t.Completed 0 false (4 * ((s.inLen + 2) / 3)) ∧
      t.outBytes = b64Encode s.inBytes ∧ s.SameInput t ∧ s.SameHeaderRegs t

/-- R146: B64ENC raises PayloadTooLarge (code 5) when 4 * ceil(ILEN / 3) > OBUF_SIZE, which in REFCFG is ILEN > 98304. -/
def Obligations.Base64TooLarge : Prop :=
  ∀ s : State, s.inLen ≤ s.cfg.ibufSize → ∃ t, exec .b64enc s = .next t ∧
    (s.cfg.obufSize < 4 * ((s.inLen + 2) / 3) → s.FailedWith t 5 ∧ s.SameHeaderRegs t) ∧
    (s.cfg = Config.refcfg → (statusErr t.status = 5#4 ↔ 98304 < s.inLen))

/-- R141 to R145: the text has 4 * ceil(n / 3) characters, is built group by group, a full group and the two short groups give the
characters of R142 and R143 over the alphabet of R144, and two byte strings with one text are one. -/
def Obligations.Base64TextDeterminesTheBytes : Prop :=
  (∀ d : List Byte, (b64Encode d).length = 4 * ((d.length + 2) / 3)) ∧
  (∀ d e : List Byte, d.length % 3 = 0 → b64Encode (d ++ e) = b64Encode d ++ b64Encode e) ∧
  b64Encode [] = [] ∧
  (∀ x0 x1 x2 : Byte, b64Encode [x0, x1, x2] =
    [specB64Char (specB64Number x0 x1 x2 / 2 ^ 18 % 64), specB64Char (specB64Number x0 x1 x2 / 2 ^ 12 % 64),
     specB64Char (specB64Number x0 x1 x2 / 2 ^ 6 % 64), specB64Char (specB64Number x0 x1 x2 % 64)]) ∧
  (∀ x0 x1 : Byte, b64Encode [x0, x1] =
    [specB64Char (specB64Number x0 x1 0#8 / 2 ^ 18 % 64), specB64Char (specB64Number x0 x1 0#8 / 2 ^ 12 % 64),
     specB64Char (specB64Number x0 x1 0#8 / 2 ^ 6 % 64), 0x3D#8]) ∧
  (∀ x0 : Byte, b64Encode [x0] =
    [specB64Char (specB64Number x0 0#8 0#8 / 2 ^ 18 % 64), specB64Char (specB64Number x0 0#8 0#8 / 2 ^ 12 % 64),
     0x3D#8, 0x3D#8]) ∧
  (∀ d e : List Byte, b64Encode d = b64Encode e → d = e)

/-! ## NEGOTIATE -/

/-- R87, R110, R111: the needle is the 18 bytes of `Sec-WebSocket-Key:`; NEGOTIATE's result for its first place `p`, its frame. -/
def Obligations.NegotiateResult : Prop :=
  hsNeedle = asciiBytes "Sec-WebSocket-Key:" ∧
  ∀ (s : State) (p : Nat), s.inLen ≤ s.cfg.ibufSize → (s.inBytes.drop p).take 18 = hsNeedle →
    (∀ q, q < p → (s.inBytes.drop q).take 18 ≠ hsNeedle) →
    ∃ t, exec .negotiate s = .next t ∧ t.Completed 0 false 156 ∧
      t.outBytes = hsResponse (hsAccept (hsValue (s.inBytes.drop (p + 18)))) ∧
      s.SameInput t ∧ s.SameHeaderRegs t

/-- R112: no place of the needle gives MissingKey (code 1). -/
def Obligations.NegotiateMissingKey : Prop :=
  ∀ s : State, s.inLen ≤ s.cfg.ibufSize → (∀ p, (s.inBytes.drop p).take 18 ≠ hsNeedle) →
    ∃ t, exec .negotiate s = .next t ∧ s.FailedWith t 1 ∧ s.SameHeaderRegs t

/-- R113: blanks before the value are skipped, the first CR or LF or the end ends it, blanks before that end are dropped, bytes
inside are kept. -/
def Obligations.KeyValueIsDelimited : Prop :=
  ∀ lead v trail rest : List Byte,
    (∀ b ∈ lead, b = 0x20#8 ∨ b = 0x09#8) → (∀ b ∈ trail, b = 0x20#8 ∨ b = 0x09#8) →
    (∀ b ∈ v, b ≠ 0x0D#8 ∧ b ≠ 0x0A#8) →
    (∀ b, v.head? = some b ∨ v.getLast? = some b → b ≠ 0x20#8 ∧ b ≠ 0x09#8) →
    (∀ b, rest.head? = some b → b = 0x0D#8 ∨ b = 0x0A#8) →
    hsValue (lead ++ (v ++ (trail ++ rest))) = v

/-- R114: the accept text is the base64 of the SHA-1 of value and GUID, 28 characters, the last `=`. -/
def Obligations.AcceptTextIs28Characters : Prop :=
  hsGuid = asciiBytes "258EAFA5-E914-47DA-95CA-C5AB0DC85B11" ∧
  ∀ v : List Byte, hsAccept v = b64Encode (sha1Hash (v ++ hsGuid)) ∧ (sha1Hash (v ++ hsGuid)).length = 20 ∧
    (hsAccept v).length = 28 ∧ (hsAccept v).getLast? = some 0x3D#8

/-- R116: the response is the literal lines with the accept text in place, each line ended by CR LF, a blank line at the end. -/
def Obligations.ResponseIsTheLiteralLines : Prop :=
  ∀ accept : List Byte,
    hsResponse accept =
      asciiBytes "HTTP/1.1 101 Switching Protocols\r\nUpgrade: websocket\r\nSec-WebSocket-Version: 13\r\nConnection: Upgrade\r\nSec-WebSocket-Accept: " ++
        accept ++ asciiBytes "\r\n\r\n"

/-! ## DECODE and the header formats -/

/-- R160, R162, R163, R168 to R171: DECODE's result when every check passes. -/
def Obligations.DecodeResult : Prop :=
  ∀ (em : Bool) (s : State), s.FrameFits s.specMasked s.specHdrw s.specPlen →
    ∃ t, exec (.decode em) s = .next t ∧
      s.DecodedAs t em s.specFin s.specMasked s.specOpcode s.specHdrw s.specPlen

/-- R161, R164 to R167, R176, R213: DECODE's errors, in their order. -/
def Obligations.DecodeErrors : Prop :=
  ∀ (em : Bool) (s : State), s.DecodeFails (exec (.decode em) s) s.specMasked s.specHdrw s.specPlen

/-- R75, R160: the six header rows complete where their frame fits, with the fields they carry and the FLAG in progress (log 7). -/
def Obligations.HeaderFormatResults : Prop :=
  ∀ (s : State) (fin : Bool) (rsv : BitVec 3) (opcode : BitVec 4),
    (∀ len7 : BitVec 7, len7.toNat ≤ 125 → s.FrameFits false 2 len7.toNat →
      ∃ t, exec (.f7u fin rsv opcode len7) s = .next t ∧
        s.DecodedAs t s.flag fin false opcode.toNat 2 len7.toNat) ∧
    (∀ len7 : BitVec 7, len7.toNat ≤ 125 → s.FrameFits true 2 len7.toNat →
      ∃ t, exec (.f7m fin rsv opcode len7) s = .next t ∧
        s.DecodedAs t s.flag fin true opcode.toNat 2 len7.toNat) ∧
    (s.FrameFits false 4 s.specLen16 →
      ∃ t, exec (.f16u fin rsv opcode) s = .next t ∧ s.DecodedAs t s.flag fin false opcode.toNat 4 s.specLen16) ∧
    (s.FrameFits true 4 s.specLen16 →
      ∃ t, exec (.f16m fin rsv opcode) s = .next t ∧ s.DecodedAs t s.flag fin true opcode.toNat 4 s.specLen16) ∧
    (s.FrameFits false 10 s.specLen64 →
      ∃ t, exec (.f64u fin rsv opcode) s = .next t ∧ s.DecodedAs t s.flag fin false opcode.toNat 10 s.specLen64) ∧
    (s.FrameFits true 10 s.specLen64 →
      ∃ t, exec (.f64m fin rsv opcode) s = .next t ∧ s.DecodedAs t s.flag fin true opcode.toNat 10 s.specLen64)

/-- R75, R86, R161, R164 to R167, R176, R213, R214: the six header rows end with the same errors in the same order, IllegalCommand
before all others where ILEN is above IBUF_SIZE (log 7). -/
def Obligations.HeaderFormatErrors : Prop :=
  ∀ (s : State) (fin : Bool) (rsv : BitVec 3) (opcode : BitVec 4),
    (∀ len7 : BitVec 7, len7.toNat ≤ 125 →
      s.DecodeFails (exec (.f7u fin rsv opcode len7) s) false 2 len7.toNat ∧
      s.DecodeFails (exec (.f7m fin rsv opcode len7) s) true 2 len7.toNat) ∧
    s.DecodeFails (exec (.f16u fin rsv opcode) s) false 4 s.specLen16 ∧
    s.DecodeFails (exec (.f16m fin rsv opcode) s) true 4 s.specLen16 ∧
    s.DecodeFails (exec (.f64u fin rsv opcode) s) false 10 s.specLen64 ∧
    s.DecodeFails (exec (.f64m fin rsv opcode) s) true 10 s.specLen64 ∧
    (s.cfg.ibufSize < s.inLen → ∀ (len7 : BitVec 7) (i : Instr),
      (i = .f7u fin rsv opcode len7 ∨ i = .f7m fin rsv opcode len7 ∨ i = .f16u fin rsv opcode ∨
        i = .f16m fin rsv opcode ∨ i = .f64u fin rsv opcode ∨ i = .f64m fin rsv opcode) →
      ∃ t, exec i s = .next t ∧ s.FailedWith t 6 ∧ s.SameHeaderRegs t)

/-- R171: FLAG changes nothing but STATUS.MM, which is 1 exactly at a success whose MASK bit differs from FLAG. That the bytes of
OBUF above OLEN, and after an error KEY, HDR, PAYLEN and FRAMELEN, agree between the two runs is the model's choice and no rule of
the spec, which leaves them any value: they are free values by draw number (log 4, 5, 8). -/
def Obligations.ExpectMaskedSetsOnlyMm : Prop :=
  ∀ s : State, ∃ t u, exec (.decode true) s = .next t ∧ exec (.decode false) s = .next u ∧
    { t with status := u.status } = u ∧ statusErr t.status = statusErr u.status ∧
    statusMm t.status = (decide (statusErr t.status = 0#4) && !s.specMasked) ∧
    statusMm u.status = (decide (statusErr u.status = 0#4) && s.specMasked)

/-- R80, decode half: two states that differ only in the rsv bits of IBUF[0] decode alike: STATUS, OLEN, OBUF[0..OLEN), HDR, PAYLEN,
FRAMELEN and KEY are the same. That OBUF above OLEN, and after an error KEY, HDR, PAYLEN and FRAMELEN, are the same too is the
model's choice and no rule of the spec, which leaves them any value: they are free values by draw number (log 4, 5, 8). -/
def Obligations.RsvBitsAreIgnored : Prop :=
  ∀ (em : Bool) (s u : State), { u with ibuf := s.ibuf, ibufDraw := s.ibufDraw } = s →
    (∀ i, i ≠ 0 → u.ibufByte i = s.ibufByte i) →
    (u.ibufByte 0) &&& 0x8F#8 = (s.ibufByte 0) &&& 0x8F#8 →
    ∃ t v, exec (.decode em) s = .next t ∧ exec (.decode em) u = .next v ∧
      { v with ibuf := t.ibuf, ibufDraw := t.ibufDraw } = t

/-- R172: bytes of IBUF from FRAMELEN on, and how many of them there are, change nothing in a successful DECODE. That OBUF above OLEN
is the same too is the model's choice and no rule of the spec, which leaves it any value: free values by draw number (log 4, 5). -/
def Obligations.TrailingBytesAreIgnored : Prop :=
  ∀ (em : Bool) (s u : State), s.FrameFits s.specMasked s.specHdrw s.specPlen →
    u.inLen ≤ u.cfg.ibufSize → s.specHdrw + specKeyw s.specMasked + s.specPlen ≤ u.inLen →
    { u with ibuf := s.ibuf, ibufDraw := s.ibufDraw, ilen := s.ilen } = s →
    (∀ i, i < s.specHdrw + specKeyw s.specMasked + s.specPlen → u.ibufByte i = s.ibufByte i) →
    ∃ t v, exec (.decode em) s = .next t ∧ exec (.decode em) u = .next v ∧
      { v with ibuf := t.ibuf, ibufDraw := t.ibufDraw, ilen := t.ilen } = t

/-! ## ENCODE -/

/-- R190, R192 to R198: ENCODE's result, masked with the drawn value or not, its frame. -/
def Obligations.EncodeResult : Prop :=
  ∀ (mask : Bool) (s : State), s.cfg.Legal → s.inLen ≤ s.cfg.ibufSize → s.inLen ≤ s.cfg.maxPayload →
    ∃ t, exec (.encode mask) s = .next t ∧ s.EncodedAs t mask (Config.rnd s.draws)

/-- R192, R193, R198: the header of an emitted frame and the registers that describe it. -/
def Obligations.EncodeHeaderIsTheShortestForm : Prop :=
  ∀ (mask : Bool) (s : State), s.cfg.Legal → s.inLen ≤ s.cfg.ibufSize → s.inLen ≤ s.cfg.maxPayload →
    ∃ t, exec (.encode mask) s = .next t ∧
      t.Completed 0 false (encHdrw s.inLen + specKeyw mask + s.inLen) ∧
      t.obufByte 0 = 0x81#8 ∧
      (t.obufByte 1).toNat = 128 * bit mask + encLen7 s.inLen ∧
      (126 ≤ s.inLen → s.inLen ≤ 65535 →
        (t.obufByte 2).toNat = s.inLen / 256 ∧ (t.obufByte 3).toNat = s.inLen % 256) ∧
      (65535 < s.inLen → ∀ j, j < 8 → (t.obufByte (2 + j)).toNat = s.inLen / 256 ^ (7 - j) % 256) ∧
      t.hdr.toNat = 1 + 2 * bit mask + 16 ∧ t.paylen.toNat = s.inLen ∧ t.framelen = t.olen

/-- R192 (the reading of the row as the ENCODE in progress is the model's, log 7): the frame emitted starts with 0x81, and it is the
frame ENCODE emits. -/
def Obligations.EncodeByte0Result : Prop :=
  ∀ s : State, exec .encodeByte0 s = exec (.encode s.flag) s ∧
    (s.cfg.Legal → s.inLen ≤ s.cfg.ibufSize → s.inLen ≤ s.cfg.maxPayload →
      ∃ t, exec .encodeByte0 s = .next t ∧ t.obufByte 0 = 0x81#8 ∧ s.EncodedAs t s.flag (Config.rnd s.draws))

/-- R191, R201, R213, R214: ENCODE raises IllegalCommand when ILEN > IBUF_SIZE, else PayloadTooLarge (code 5) when
ILEN > MAX_PAYLOAD, and changes no other register. That ENCODE_BYTE0 does the same is the model's reading of the row (log 7). -/
def Obligations.EncodeTooLarge : Prop :=
  ∀ (mask : Bool) (s : State) (i : Instr), (i = .encode mask ∨ i = .encodeByte0) →
    (s.cfg.ibufSize < s.inLen → ∃ t, exec i s = .next t ∧ s.FailedWith t 6 ∧ s.SameHeaderRegs t) ∧
    (s.inLen ≤ s.cfg.ibufSize → s.cfg.maxPayload < s.inLen →
      ∃ t, exec i s = .next t ∧ s.FailedWith t 5 ∧ s.SameHeaderRegs t)

/-! ## Whole-machine rules -/

/-- R178: round trip, for every payload, both values of the flag and whatever key was drawn. -/
def Obligations.DecodeOfEncodeIsThePayload : Prop :=
  ∀ (m : Bool) (s t u : State), s.cfg.Legal → exec (.encode m) s = .next t → statusErr t.status = 0#4 →
    t.olen.toNat ≤ t.cfg.ibufSize → u.cfg = t.cfg → u.ilen = t.olen →
    (∀ k, k < t.olen.toNat → u.ibufByte k = t.obufByte k) →
    ∃ v, exec (.decode m) u = .next v ∧ v.Completed 0 false s.inLen ∧
      (∀ i, i < s.inLen → v.obufByte i = s.ibufByte i) ∧
      v.hdr.toNat = 1 + 2 * bit m + 16 ∧ v.paylen.toNat = s.inLen ∧ v.framelen = t.olen ∧
      (m = true → v.key = t.key ∧ v.key = Config.rnd s.draws)

/-- R22, R56: the outcome of an operation is a function of the command, ILEN, IBUF below ILEN, KEY for MASKXOR, the drawn key for
a masked ENCODE and the parameters, and of nothing else. For the header rows and ENCODE_BYTE0 FLAG is the latched one (log 7);
the drawn key is Config.rnd at the draw number (log 5). -/
def Obligations.OutcomeDependsOnArgumentsAlone : Prop :=
  ∀ (i : Instr) (s u : State), u.cfg = s.cfg → u.ilen = s.ilen → u.flag = s.flag →
    (∀ k, k < s.inLen → u.ibufByte k = s.ibufByte k) → (i = .maskxor → u.key = s.key) →
    (i = .encode true ∨ (i = .encodeByte0 ∧ s.flag = true) → Config.rnd u.draws = Config.rnd s.draws) →
    ∃ t v, exec i s = .next t ∧ exec i u = .next v ∧ v.status = t.status ∧ v.olen = t.olen ∧
      (∀ k, k < t.olen.toNat → v.obufByte k = t.obufByte k) ∧
      (codecInstr i = true → statusErr t.status = 0#4 →
        v.hdr = t.hdr ∧ v.paylen = t.paylen ∧ v.framelen = t.framelen ∧
        (hdrRegMasked t.hdr = true → v.key = t.key))

/-- R33, R59: no operation, whatever its outcome, writes IBUF or ILEN or the parameters. -/
def Obligations.OperationsNeverWriteTheirInput : Prop :=
  ∀ (i : Instr) (s t : State), exec i s = .next t → s.SameInput t

/-- R29, R33, R201: outside DECODE and its header rows an error leaves KEY, HDR, PAYLEN and FRAMELEN alone, and NEGOTIATE, MASKXOR,
SHA1, B64ENC and the reserved codes leave them alone always. The clauses on ENCODE_BYTE0 and the header rows rest on the model's
reading of these rows (log 7). -/
def Obligations.HeaderRegistersAreKept : Prop :=
  ∀ (i : Instr) (s t : State), exec i s = .next t →
    (codecInstr i = false → s.SameHeaderRegs t) ∧
    (∀ m, (i = .encode m ∨ i = .encodeByte0) → statusErr t.status ≠ 0#4 → s.SameHeaderRegs t)

/-- R14, R211, R215, R216, R256: every operation, on every state, completes: BUSY 0, DONE 1, no command latched, ERR at most 6, the
output `done` 1, and an error comes with OLEN 0 and MM 0. -/
def Obligations.EveryOperationCompletes : Prop :=
  ∀ (i : Instr) (s : State), ∃ t, exec i s = .next t ∧ t.busy = false ∧ t.donePin = true ∧ t.latched = none ∧
    (statusErr t.status).toNat ≤ 6 ∧
    (statusErr t.status ≠ 0#4 → t.olen = 0#64 ∧ statusMm t.status = false)

/-- R256, R255: whatever number of STATUS reads the host makes in BUSY, the operation completes on the block's turn after them,
and the moves after that turn are still to come (moves: log 3). -/
def Obligations.WaitingHostSeesCompletion : Prop :=
  ∀ (s : State) (w : Word32) (n : Nat) (rest : List Move), s.busy = true → s.latched = some w →
    (s.moves = List.replicate n (.readReg 1) ++ .blockTurn :: rest ∨
      (s.moves = List.replicate n (.readReg 1) ∧ rest = [])) →
    ∃ t, Sys2Proof.core.run (n + 1) s = .next t ∧ t.busy = false ∧ t.donePin = true ∧ t.latched = none ∧
      t.moves = rest

/-- R6, R20, R26, R28, R30, R57: the invariant holds after reset (in the reference configuration, log 1). -/
def Obligations.InvHoldsAtReset : Prop := State.reset.Inv

/-- R20, R26, R28, R30, R34, R57: every step keeps the invariant. -/
def Obligations.StepKeepsInv : Prop :=
  ∀ s t : State, s.Inv → step s = .next t → t.Inv

/-- R6, R13: no step changes the parameters. -/
def Obligations.StepKeepsTheParameters : Prop :=
  ∀ s t : State, step s = .next t → t.cfg = s.cfg
end

