-- ==== Sys2Proof/Laws/Bits.lean ====
section
/-! SUPPORT. The fields of STATUS, HDR and a command word, and byte strings as numbers. -/

namespace Sys2Proof.Machine

@[simp] theorem statusBusy_statusWord (b d m : Bool) (e : BitVec 4) : statusBusy (statusWord b d m e) = b := by
  revert b d m e; decide

@[simp] theorem statusDone_statusWord (b d m : Bool) (e : BitVec 4) : statusDone (statusWord b d m e) = d := by
  revert b d m e; decide

@[simp] theorem statusMm_statusWord (b d m : Bool) (e : BitVec 4) : statusMm (statusWord b d m e) = m := by
  revert b d m e; decide

@[simp] theorem statusErr_statusWord (b d m : Bool) (e : BitVec 4) : statusErr (statusWord b d m e) = e := by
  revert b d m e; decide

@[simp] theorem statusBusy_zero : statusBusy 0#32 = false := rfl

@[simp] theorem statusDone_zero : statusDone 0#32 = false := rfl

/-- STATUS as a number (R26). -/
theorem statusWord_toNat (b d m : Bool) (e : BitVec 4) :
    (statusWord b d m e).toNat = b.toNat + 2 * d.toNat + 4 * m.toNat + 16 * e.toNat := by
  revert b d m e; decide

theorem statusWord_reserved (b d m : Bool) (e : BitVec 4) :
    statusWord b d m e &&& 0xFFFFFF08#32 = 0#32 := by
  revert b d m e; decide

@[simp] theorem hdrRegMasked_hdrWord (f m : Bool) (o : BitVec 4) : hdrRegMasked (hdrWord f m o) = m := by
  revert f m o; decide

/-- HDR as a number (R30). -/
theorem hdrWord_toNat (f m : Bool) (o : BitVec 4) :
    (hdrWord f m o).toNat = f.toNat + 2 * m.toNat + 16 * o.toNat := by
  revert f m o; decide

theorem hdrWord_reserved (f m : Bool) (o : BitVec 4) : hdrWord f m o &&& 0xFFFFFF0C#32 = 0#32 := by
  revert f m o; decide

/-- The free value of HDR keeps the reserved bits 0 (R30, U3). -/
theorem hdrMaskReserved_reserved (w : Word32) : hdrMaskReserved w &&& 0xFFFFFF0C#32 = 0#32 := by
  simp only [hdrMaskReserved, BitVec.and_assoc]
  exact BitVec.and_zero

theorem errorCode_toNat_le (e : WsError) : (errorCode e).toNat ≤ 6 := by cases e <;> decide

theorem errorCode_ne_zero (e : WsError) : errorCode e ≠ 0#4 := by cases e <;> decide

@[simp] theorem natToBytes_length (n v : Nat) : (natToBytes n v).length = n := by
  induction n with
  | zero => rfl
  | succ n ih => simp [natToBytes, ih]

/-- Byte `i` of the big-endian bytes of a number (R52). -/
theorem natToBytes_getElem? (n v i : Nat) (h : i < n) :
    (natToBytes n v)[i]? = some (BitVec.ofNat 8 (v / 256 ^ (n - 1 - i))) := by
  induction n generalizing i with
  | zero => omega
  | succ n ih =>
    cases i with
    | zero => simp [natToBytes]
    | succ i =>
      simp only [natToBytes, List.getElem?_cons_succ]
      rw [ih i (by omega)]
      congr 4; omega

/-- The accumulator of the big-endian reading taken out. -/
theorem bytesToNat_foldl (bs : List Byte) (acc : Nat) :
    bs.foldl (fun v b => v * 256 + b.toNat) acc = acc * 256 ^ bs.length + bytesToNat bs := by
  induction bs generalizing acc with
  | nil => simp [bytesToNat]
  | cons b bs ih =>
    simp only [bytesToNat, List.foldl_cons, List.length_cons]
    rw [ih, ih (0 * 256 + b.toNat)]
    simp only [bytesToNat]
    ring

@[simp] theorem bytesToNat_nil : bytesToNat [] = 0 := rfl

theorem bytesToNat_cons (b : Byte) (bs : List Byte) :
    bytesToNat (b :: bs) = b.toNat * 256 ^ bs.length + bytesToNat bs := by
  have := bytesToNat_foldl bs (0 * 256 + b.toNat)
  simpa [bytesToNat] using this

theorem bytesToNat_lt (bs : List Byte) : bytesToNat bs < 256 ^ bs.length := by
  induction bs with
  | nil => simp
  | cons b bs ih =>
    rw [bytesToNat_cons, List.length_cons, pow_succ]
    have hb : b.toNat ≤ 255 := by have := b.isLt; omega
    have : b.toNat * 256 ^ bs.length ≤ 255 * 256 ^ bs.length := Nat.mul_le_mul_right _ hb
    omega

/-- Writing a number big-endian and reading it back gives it modulo the width (R52). -/
theorem bytesToNat_natToBytes (n v : Nat) : bytesToNat (natToBytes n v) = v % 256 ^ n := by
  induction n with
  | zero => simp [natToBytes, Nat.mod_one]
  | succ n ih =>
    have e : v % 256 ^ (n + 1) = v % 256 ^ n + 256 ^ n * (v / 256 ^ n % 256) := Nat.mod_pow_succ
    rw [e, natToBytes, bytesToNat_cons, ih, natToBytes_length, BitVec.toNat_ofNat, Nat.mul_comm, Nat.add_comm]

end Sys2Proof.Machine
end

