-- ==== Sys2Proof/Laws/Crypto.lean ====
section
/-! SUPPORT. SHA-1 as sequences of rounds and of blocks, the lengths of digest, base64 text and response, and the search. -/

namespace Sys2Proof.Machine

/-- The digest is always 20 bytes (R137). -/
@[simp] theorem sha1Hash_length (m : List Byte) : (sha1Hash m).length = 20 := by
  simp [sha1Hash, sha1Output]

/-- The padded message is a whole number of blocks (R131). -/
theorem sha1Pad_length (m : List Byte) : (sha1Pad m).length = 64 * ((m.length + 8) / 64 + 1) := by
  simp [sha1Pad]; omega

/-- One word for every four bytes (R132). -/
theorem sha1Words_length (m : List Byte) : (sha1Words m).length = m.length / 4 := by
  induction m using sha1Words.induct with
  | case1 b0 b1 b2 b3 bs ih => simp only [sha1Words, List.length_cons, ih]; omega
  | case2 bs h =>
    match bs, h with
    | [], _ => rfl
    | [_], _ => simp [sha1Words]
    | [_, _], _ => simp [sha1Words]
    | [_, _, _], _ => simp [sha1Words]
    | a :: b :: c :: d :: e, h => exact absurd rfl (h a b c d e)

theorem sha1Extend_length (n : Nat) (w : List Word32) : (sha1Extend n w).length = w.length + n := by
  induction n generalizing w with
  | zero => rfl
  | succ n ih => simp only [sha1Extend, ih, List.length_append, List.length_singleton]; omega

/-- The rounds are a sequence of states, each the round of the one before it with its word (R136). -/
theorem sha1Rounds_states (ws : List Word32) (t : Nat) (h : Hash5) :
    ∃ v : Nat → Hash5, v 0 = h ∧ (∀ i, i < ws.length → v (i + 1) = sha1Round (t + i) (wordAt ws i) (v i)) ∧
      v ws.length = sha1Rounds t ws h := by
  induction ws generalizing t h with
  | nil => exact ⟨fun _ => h, rfl, by simp, rfl⟩
  | cons w ws ih =>
    obtain ⟨v, h0, hs, he⟩ := ih (t + 1) (sha1Round t w h)
    refine ⟨fun i => match i with | 0 => h | i + 1 => v i, rfl, ?_, by simpa [sha1Rounds] using he⟩
    intro i hi
    cases i with
    | zero => simpa [wordAt] using h0
    | succ i => simpa [wordAt, show t + 1 + i = t + (i + 1) by omega] using hs i (by simpa using hi)

/-- The blocks are a sequence of hash values, each the compression of its block into the one before it (R136). -/
theorem sha1Blocks_states (n : Nat) (ws : List Word32) (h : Hash5) :
    ∃ v : Nat → Hash5, v 0 = h ∧ (∀ j, j < n → v (j + 1) = sha1Compress ((ws.drop (16 * j)).take 16) (v j)) ∧
      v n = sha1Blocks n ws h := by
  induction n generalizing ws h with
  | zero => exact ⟨fun _ => h, rfl, by simp, rfl⟩
  | succ n ih =>
    obtain ⟨v, h0, hs, he⟩ := ih (ws.drop 16) (sha1Compress (ws.take 16) h)
    refine ⟨fun i => match i with | 0 => h | i + 1 => v i, rfl, ?_, by simpa [sha1Blocks] using he⟩
    intro j hj
    cases j with
    | zero => simpa using h0
    | succ j => simpa [List.drop_drop, show 16 + 16 * j = 16 * (j + 1) by ring] using hs j (by omega)

/-- The base64 text of `n` bytes has 4 * ceil(n / 3) characters (R141). -/
@[simp] theorem b64Encode_length (d : List Byte) : (b64Encode d).length = b64Length d.length := by
  induction d using b64Encode.induct with
  | case1 x0 x1 x2 rest ih =>
    simp only [b64Encode, List.length_cons, ih, b64Length]
    omega
  | case2 x0 x1 => simp [b64Encode, b64Length]
  | case3 x0 => simp [b64Encode, b64Length]
  | case4 => simp [b64Encode, b64Length]

/-- The response is 128 bytes and the accept text (R116). -/
@[simp] theorem hsResponse_length (accept : List Byte) : (hsResponse accept).length = 128 + accept.length := by
  simp [hsResponse, hsStatusLine, hsUpgradeLine, hsVersionLine, hsConnectionLine, hsAcceptName, hsCrLf]
  omega

@[simp] theorem hsNeedle_length : hsNeedle.length = 18 := rfl

/-- The response to any key value is 156 bytes (R116). -/
theorem hsResponse_hsAccept_length (v : List Byte) : (hsResponse (hsAccept v)).length = 156 := by
  simp [hsAccept, b64Length]

/-- The search answers an index where the needle stands and before which it stands nowhere (R111). -/
theorem findFirst_some (needle : List Byte) (hay : List Byte) (p : Nat) (h : findFirst needle hay = some p) :
    needle <+: hay.drop p ∧ ∀ q, q < p → ¬ needle <+: hay.drop q := by
  induction hay generalizing p with
  | nil =>
    simp only [findFirst] at h
    split at h
    · rename_i hp
      cases h
      exact ⟨List.isPrefixOf_iff_prefix.1 hp, fun q hq => absurd hq (Nat.not_lt_zero q)⟩
    · cases h
  | cons b bs ih =>
    simp only [findFirst] at h
    split at h
    · rename_i hp
      cases h
      exact ⟨List.isPrefixOf_iff_prefix.1 hp, fun q hq => absurd hq (Nat.not_lt_zero q)⟩
    · rename_i hn
      obtain ⟨k, hk, rfl⟩ := Option.map_eq_some_iff.1 h
      obtain ⟨h1, h2⟩ := ih k hk
      refine ⟨by simpa using h1, fun q hq => ?_⟩
      cases q with
      | zero => simpa [List.isPrefixOf_iff_prefix] using hn
      | succ q => simpa using h2 q (by omega)

/-- Where the search answers nothing the needle stands nowhere (R111, R112). -/
theorem findFirst_none (needle : List Byte) (hay : List Byte) (h : findFirst needle hay = none) (q : Nat) :
    ¬ (needle <+: hay.drop q ∧ q ≤ hay.length) := by
  induction hay generalizing q with
  | nil =>
    simp only [findFirst] at h
    split at h
    · cases h
    · rename_i hn
      rintro ⟨hp, _⟩
      exact hn (List.isPrefixOf_iff_prefix.2 (by simpa using hp))
  | cons b bs ih =>
    simp only [findFirst] at h
    split at h
    · cases h
    · rename_i hn
      have hb : findFirst needle bs = none := by
        cases hf : findFirst needle bs with
        | none => rfl
        | some k => simp [hf] at h
      cases q with
      | zero =>
        rintro ⟨hp, _⟩
        exact hn (List.isPrefixOf_iff_prefix.2 (by simpa using hp))
      | succ q =>
        rintro ⟨hp, hq⟩
        exact ih hb q ⟨by simpa using hp, by simpa using hq⟩

end Sys2Proof.Machine
end

