-- ==== Sys2Proof/Laws/Memory.lean ====
section
/-! SUPPORT. The buffers: a read after a write, the canonical form every operation keeps, a byte string placed in a buffer. -/

namespace Sys2Proof.Machine

@[simp] theorem Memory.read_nil (a : Nat) : Memory.read [] a = none := rfl

/-- A read at the index written gives the byte written. -/
@[simp] theorem Memory.read_write_same (m : Memory) (a : Nat) (b : Byte) : (m.write a b).read a = some b := by
  induction m with
  | nil => simp [Memory.write, Memory.read]
  | cons c m ih =>
    obtain ⟨k, v⟩ := c
    simp only [Memory.write]
    split
    · simp [Memory.read]
    · split
      · simp [Memory.read]
      · simp [Memory.read, *]

/-- A write leaves every other index alone. -/
theorem Memory.read_write_other (m : Memory) (a j : Nat) (b : Byte) (h : j ≠ a) :
    (m.write a b).read j = m.read j := by
  induction m with
  | nil => simp [Memory.write, Memory.read, h]
  | cons c m ih =>
    obtain ⟨k, v⟩ := c
    simp only [Memory.write]
    split
    · simp [Memory.read, h]
    · split
      · subst_vars; simp [Memory.read, h]
      · simp [Memory.read, ih]

/-- The entries after a write: the one written and those of other indices. -/
theorem Memory.mem_write (m : Memory) (a : Nat) (b : Byte) (c : Host.Cell) (h : c ∈ m.write a b) :
    c = (a, b) ∨ c ∈ m := by
  induction m with
  | nil => simpa [Memory.write] using h
  | cons d m ih =>
    obtain ⟨k, v⟩ := d
    simp only [Memory.write] at h
    split at h
    · simpa using h
    · split at h
      · simp only [List.mem_cons] at h ⊢
        tauto
      · simp only [List.mem_cons] at h ⊢
        rcases h with h | h
        · exact .inr (.inl h)
        · rcases ih h with h | h
          · exact .inl h
          · exact .inr (.inr h)

/-- A write keeps the canonical form. -/
theorem Memory.wf_write (m : Memory) (a : Nat) (b : Byte) (h : m.wf) : (m.write a b).wf := by
  induction m with
  | nil => simp [Memory.write]
  | cons d m ih =>
    obtain ⟨k, v⟩ := d
    obtain ⟨hk, hm⟩ := List.pairwise_cons.1 h
    simp only [Memory.write]
    split
    · rename_i hlt
      refine List.pairwise_cons.2 ⟨?_, List.pairwise_cons.2 ⟨hk, hm⟩⟩
      intro c hc
      rcases List.mem_cons.1 hc with rfl | hc
      · exact hlt
      · exact lt_trans hlt (hk c hc)
    · split
      · rename_i _ heq
        subst heq
        exact List.pairwise_cons.2 ⟨hk, hm⟩
      · rename_i h1 h2
        refine List.pairwise_cons.2 ⟨?_, ih hm⟩
        intro c hc
        rcases Memory.mem_write m a b c hc with rfl | hc
        · show k < a
          omega
        · exact hk c hc

/-- The indices of a byte string placed from `a` on. -/
theorem Memory.mem_ofBytesFrom (bs : List Byte) (a : Nat) (c : Host.Cell) (h : c ∈ Memory.ofBytesFrom a bs) :
    a ≤ c.1 ∧ c.1 < a + bs.length := by
  induction bs generalizing a with
  | nil => simp [Memory.ofBytesFrom] at h
  | cons b bs ih =>
    rcases List.mem_cons.1 h with rfl | h
    · simp
    · have := ih (a + 1) h
      simp only [List.length_cons]
      omega

theorem Memory.wf_ofBytesFrom (bs : List Byte) (a : Nat) : (Memory.ofBytesFrom a bs).wf := by
  induction bs generalizing a with
  | nil => exact List.Pairwise.nil
  | cons b bs ih =>
    refine List.pairwise_cons.2 ⟨?_, ih (a + 1)⟩
    intro c hc
    have := Memory.mem_ofBytesFrom bs (a + 1) c hc
    show a < c.1
    omega

/-- A byte string placed in a buffer is in canonical form. -/
theorem Memory.wf_ofBytes (bs : List Byte) : (Memory.ofBytes bs).wf := Memory.wf_ofBytesFrom bs 0

/-- The entries of a byte string placed in a buffer lie below its length. -/
theorem Memory.mem_ofBytes (bs : List Byte) (c : Host.Cell) (h : c ∈ Memory.ofBytes bs) : c.1 < bs.length := by
  have := Memory.mem_ofBytesFrom bs 0 c h
  omega

theorem Memory.read_ofBytesFrom (bs : List Byte) (a i : Nat) (h : a ≤ i) :
    (Memory.ofBytesFrom a bs).read i = bs[i - a]? := by
  induction bs generalizing a with
  | nil => simp [Memory.ofBytesFrom]
  | cons b bs ih =>
    simp only [Memory.ofBytesFrom, Memory.read]
    split
    · subst_vars; simp
    · rw [ih (a + 1) (by omega)]
      obtain ⟨k, hk⟩ : ∃ k, i - a = k + 1 := ⟨i - a - 1, by omega⟩
      rw [hk, List.getElem?_cons_succ]
      congr 1; omega

/-- Byte `i` of a byte string placed in a buffer is its byte `i`. -/
@[simp] theorem Memory.read_ofBytes (bs : List Byte) (i : Nat) : (Memory.ofBytes bs).read i = bs[i]? := by
  simp [Memory.ofBytes, Memory.read_ofBytesFrom]

end Sys2Proof.Machine
end

