-- ==== Sys2Proof/Laws/State.lean ====
section
/-! SUPPORT. Per update of the state and per field, what the field holds after it: so that no proof unfolds a record update. -/

namespace Sys2Proof.Machine

@[simp] theorem State.issue_cfg (s : State) (w : Word32) :
    (s.issue w).cfg = s.cfg := rfl

@[simp] theorem State.issue_status (s : State) (w : Word32) :
    (s.issue w).status = statusWord true false false 0#4 := rfl

@[simp] theorem State.issue_ilen (s : State) (w : Word32) :
    (s.issue w).ilen = s.ilen := rfl

@[simp] theorem State.issue_olen (s : State) (w : Word32) :
    (s.issue w).olen = s.olen := rfl

@[simp] theorem State.issue_key (s : State) (w : Word32) :
    (s.issue w).key = s.key := rfl

@[simp] theorem State.issue_hdr (s : State) (w : Word32) :
    (s.issue w).hdr = s.hdr := rfl

@[simp] theorem State.issue_paylen (s : State) (w : Word32) :
    (s.issue w).paylen = s.paylen := rfl

@[simp] theorem State.issue_framelen (s : State) (w : Word32) :
    (s.issue w).framelen = s.framelen := rfl

@[simp] theorem State.issue_latched (s : State) (w : Word32) :
    (s.issue w).latched = some w := rfl

@[simp] theorem State.issue_ibuf (s : State) (w : Word32) :
    (s.issue w).ibuf = s.ibuf := rfl

@[simp] theorem State.issue_obuf (s : State) (w : Word32) :
    (s.issue w).obuf = s.obuf := rfl

@[simp] theorem State.issue_ibufDraw (s : State) (w : Word32) :
    (s.issue w).ibufDraw = s.ibufDraw := rfl

@[simp] theorem State.issue_obufDraw (s : State) (w : Word32) :
    (s.issue w).obufDraw = s.obufDraw := rfl

@[simp] theorem State.issue_draws (s : State) (w : Word32) :
    (s.issue w).draws = s.draws := rfl

@[simp] theorem State.issue_moves (s : State) (w : Word32) :
    (s.issue w).moves = s.moves := rfl

@[simp] theorem State.issue_readData (s : State) (w : Word32) :
    (s.issue w).readData = s.readData := rfl

@[simp] theorem State.complete_cfg (s : State) (err : BitVec 4) (mm : Bool) (r : List Byte) :
    (s.complete err mm r).cfg = s.cfg := rfl

@[simp] theorem State.complete_status (s : State) (err : BitVec 4) (mm : Bool) (r : List Byte) :
    (s.complete err mm r).status = statusWord false true mm err := rfl

@[simp] theorem State.complete_ilen (s : State) (err : BitVec 4) (mm : Bool) (r : List Byte) :
    (s.complete err mm r).ilen = s.ilen := rfl

@[simp] theorem State.complete_olen (s : State) (err : BitVec 4) (mm : Bool) (r : List Byte) :
    (s.complete err mm r).olen = BitVec.ofNat 64 r.length := rfl

@[simp] theorem State.complete_key (s : State) (err : BitVec 4) (mm : Bool) (r : List Byte) :
    (s.complete err mm r).key = s.key := rfl

@[simp] theorem State.complete_hdr (s : State) (err : BitVec 4) (mm : Bool) (r : List Byte) :
    (s.complete err mm r).hdr = s.hdr := rfl

@[simp] theorem State.complete_paylen (s : State) (err : BitVec 4) (mm : Bool) (r : List Byte) :
    (s.complete err mm r).paylen = s.paylen := rfl

@[simp] theorem State.complete_framelen (s : State) (err : BitVec 4) (mm : Bool) (r : List Byte) :
    (s.complete err mm r).framelen = s.framelen := rfl

@[simp] theorem State.complete_latched (s : State) (err : BitVec 4) (mm : Bool) (r : List Byte) :
    (s.complete err mm r).latched = none := rfl

@[simp] theorem State.complete_ibuf (s : State) (err : BitVec 4) (mm : Bool) (r : List Byte) :
    (s.complete err mm r).ibuf = s.ibuf := rfl

@[simp] theorem State.complete_obuf (s : State) (err : BitVec 4) (mm : Bool) (r : List Byte) :
    (s.complete err mm r).obuf = Memory.ofBytes r := rfl

@[simp] theorem State.complete_ibufDraw (s : State) (err : BitVec 4) (mm : Bool) (r : List Byte) :
    (s.complete err mm r).ibufDraw = s.ibufDraw := rfl

@[simp] theorem State.complete_obufDraw (s : State) (err : BitVec 4) (mm : Bool) (r : List Byte) :
    (s.complete err mm r).obufDraw = s.draws := rfl

@[simp] theorem State.complete_draws (s : State) (err : BitVec 4) (mm : Bool) (r : List Byte) :
    (s.complete err mm r).draws = s.draws + 1 := rfl

@[simp] theorem State.complete_moves (s : State) (err : BitVec 4) (mm : Bool) (r : List Byte) :
    (s.complete err mm r).moves = s.moves := rfl

@[simp] theorem State.complete_readData (s : State) (err : BitVec 4) (mm : Bool) (r : List Byte) :
    (s.complete err mm r).readData = s.readData := rfl

@[simp] theorem State.succeed_cfg (s : State) (mm : Bool) (r : List Byte) :
    (s.succeed mm r).cfg = s.cfg := rfl

@[simp] theorem State.succeed_status (s : State) (mm : Bool) (r : List Byte) :
    (s.succeed mm r).status = statusWord false true mm 0#4 := rfl

@[simp] theorem State.succeed_ilen (s : State) (mm : Bool) (r : List Byte) :
    (s.succeed mm r).ilen = s.ilen := rfl

@[simp] theorem State.succeed_olen (s : State) (mm : Bool) (r : List Byte) :
    (s.succeed mm r).olen = BitVec.ofNat 64 r.length := rfl

@[simp] theorem State.succeed_key (s : State) (mm : Bool) (r : List Byte) :
    (s.succeed mm r).key = s.key := rfl

@[simp] theorem State.succeed_hdr (s : State) (mm : Bool) (r : List Byte) :
    (s.succeed mm r).hdr = s.hdr := rfl

@[simp] theorem State.succeed_paylen (s : State) (mm : Bool) (r : List Byte) :
    (s.succeed mm r).paylen = s.paylen := rfl

@[simp] theorem State.succeed_framelen (s : State) (mm : Bool) (r : List Byte) :
    (s.succeed mm r).framelen = s.framelen := rfl

@[simp] theorem State.succeed_latched (s : State) (mm : Bool) (r : List Byte) :
    (s.succeed mm r).latched = none := rfl

@[simp] theorem State.succeed_ibuf (s : State) (mm : Bool) (r : List Byte) :
    (s.succeed mm r).ibuf = s.ibuf := rfl

@[simp] theorem State.succeed_obuf (s : State) (mm : Bool) (r : List Byte) :
    (s.succeed mm r).obuf = Memory.ofBytes r := rfl

@[simp] theorem State.succeed_ibufDraw (s : State) (mm : Bool) (r : List Byte) :
    (s.succeed mm r).ibufDraw = s.ibufDraw := rfl

@[simp] theorem State.succeed_obufDraw (s : State) (mm : Bool) (r : List Byte) :
    (s.succeed mm r).obufDraw = s.draws := rfl

@[simp] theorem State.succeed_draws (s : State) (mm : Bool) (r : List Byte) :
    (s.succeed mm r).draws = s.draws + 1 := rfl

@[simp] theorem State.succeed_moves (s : State) (mm : Bool) (r : List Byte) :
    (s.succeed mm r).moves = s.moves := rfl

@[simp] theorem State.succeed_readData (s : State) (mm : Bool) (r : List Byte) :
    (s.succeed mm r).readData = s.readData := rfl

@[simp] theorem State.raise_cfg (s : State) (e : WsError) :
    (s.raise e).cfg = s.cfg := rfl

@[simp] theorem State.raise_status (s : State) (e : WsError) :
    (s.raise e).status = statusWord false true false (errorCode e) := rfl

@[simp] theorem State.raise_ilen (s : State) (e : WsError) :
    (s.raise e).ilen = s.ilen := rfl

@[simp] theorem State.raise_olen (s : State) (e : WsError) :
    (s.raise e).olen = 0#64 := rfl

@[simp] theorem State.raise_key (s : State) (e : WsError) :
    (s.raise e).key = s.key := rfl

@[simp] theorem State.raise_hdr (s : State) (e : WsError) :
    (s.raise e).hdr = s.hdr := rfl

@[simp] theorem State.raise_paylen (s : State) (e : WsError) :
    (s.raise e).paylen = s.paylen := rfl

@[simp] theorem State.raise_framelen (s : State) (e : WsError) :
    (s.raise e).framelen = s.framelen := rfl

@[simp] theorem State.raise_latched (s : State) (e : WsError) :
    (s.raise e).latched = none := rfl

@[simp] theorem State.raise_ibuf (s : State) (e : WsError) :
    (s.raise e).ibuf = s.ibuf := rfl

@[simp] theorem State.raise_obuf (s : State) (e : WsError) :
    (s.raise e).obuf = [] := rfl

@[simp] theorem State.raise_ibufDraw (s : State) (e : WsError) :
    (s.raise e).ibufDraw = s.ibufDraw := rfl

@[simp] theorem State.raise_obufDraw (s : State) (e : WsError) :
    (s.raise e).obufDraw = s.draws := rfl

@[simp] theorem State.raise_draws (s : State) (e : WsError) :
    (s.raise e).draws = s.draws + 1 := rfl

@[simp] theorem State.raise_moves (s : State) (e : WsError) :
    (s.raise e).moves = s.moves := rfl

@[simp] theorem State.raise_readData (s : State) (e : WsError) :
    (s.raise e).readData = s.readData := rfl

@[simp] theorem State.raiseDecode_cfg (s : State) (e : WsError) :
    (s.raiseDecode e).cfg = s.cfg := rfl

@[simp] theorem State.raiseDecode_status (s : State) (e : WsError) :
    (s.raiseDecode e).status = statusWord false true false (errorCode e) := rfl

@[simp] theorem State.raiseDecode_ilen (s : State) (e : WsError) :
    (s.raiseDecode e).ilen = s.ilen := rfl

@[simp] theorem State.raiseDecode_olen (s : State) (e : WsError) :
    (s.raiseDecode e).olen = 0#64 := rfl

@[simp] theorem State.raiseDecode_key (s : State) (e : WsError) :
    (s.raiseDecode e).key = Config.anyKey s.draws := rfl

@[simp] theorem State.raiseDecode_hdr (s : State) (e : WsError) :
    (s.raiseDecode e).hdr = hdrMaskReserved (Config.anyHdr s.draws) := rfl

@[simp] theorem State.raiseDecode_paylen (s : State) (e : WsError) :
    (s.raiseDecode e).paylen = Config.anyPaylen s.draws := rfl

@[simp] theorem State.raiseDecode_framelen (s : State) (e : WsError) :
    (s.raiseDecode e).framelen = Config.anyFramelen s.draws := rfl

@[simp] theorem State.raiseDecode_latched (s : State) (e : WsError) :
    (s.raiseDecode e).latched = none := rfl

@[simp] theorem State.raiseDecode_ibuf (s : State) (e : WsError) :
    (s.raiseDecode e).ibuf = s.ibuf := rfl

@[simp] theorem State.raiseDecode_obuf (s : State) (e : WsError) :
    (s.raiseDecode e).obuf = [] := rfl

@[simp] theorem State.raiseDecode_ibufDraw (s : State) (e : WsError) :
    (s.raiseDecode e).ibufDraw = s.ibufDraw := rfl

@[simp] theorem State.raiseDecode_obufDraw (s : State) (e : WsError) :
    (s.raiseDecode e).obufDraw = s.draws := rfl

@[simp] theorem State.raiseDecode_draws (s : State) (e : WsError) :
    (s.raiseDecode e).draws = s.draws + 1 := rfl

@[simp] theorem State.raiseDecode_moves (s : State) (e : WsError) :
    (s.raiseDecode e).moves = s.moves := rfl

@[simp] theorem State.raiseDecode_readData (s : State) (e : WsError) :
    (s.raiseDecode e).readData = s.readData := rfl

@[simp] theorem State.resetEvent_cfg (s : State) :
    (s.resetEvent).cfg = s.cfg := rfl

@[simp] theorem State.resetEvent_status (s : State) :
    (s.resetEvent).status = 0#32 := rfl

@[simp] theorem State.resetEvent_ilen (s : State) :
    (s.resetEvent).ilen = 0#64 := rfl

@[simp] theorem State.resetEvent_olen (s : State) :
    (s.resetEvent).olen = 0#64 := rfl

@[simp] theorem State.resetEvent_key (s : State) :
    (s.resetEvent).key = 0#32 := rfl

@[simp] theorem State.resetEvent_hdr (s : State) :
    (s.resetEvent).hdr = 0#32 := rfl

@[simp] theorem State.resetEvent_paylen (s : State) :
    (s.resetEvent).paylen = 0#64 := rfl

@[simp] theorem State.resetEvent_framelen (s : State) :
    (s.resetEvent).framelen = 0#64 := rfl

@[simp] theorem State.resetEvent_latched (s : State) :
    (s.resetEvent).latched = none := rfl

@[simp] theorem State.resetEvent_ibuf (s : State) :
    (s.resetEvent).ibuf = [] := rfl

@[simp] theorem State.resetEvent_obuf (s : State) :
    (s.resetEvent).obuf = [] := rfl

@[simp] theorem State.resetEvent_ibufDraw (s : State) :
    (s.resetEvent).ibufDraw = s.draws := rfl

@[simp] theorem State.resetEvent_obufDraw (s : State) :
    (s.resetEvent).obufDraw = s.draws := rfl

@[simp] theorem State.resetEvent_draws (s : State) :
    (s.resetEvent).draws = s.draws + 1 := rfl

@[simp] theorem State.resetEvent_moves (s : State) :
    (s.resetEvent).moves = s.moves := rfl

@[simp] theorem State.resetEvent_readData (s : State) :
    (s.resetEvent).readData = s.readData := rfl

@[simp] theorem State.decodeResult_cfg (s : State) (em fin masked : Bool) (opcode : BitVec 4) (hdrw plen : Nat) :
    (s.decodeResult em fin masked opcode hdrw plen).cfg = s.cfg := rfl

@[simp] theorem State.decodeResult_status (s : State) (em fin masked : Bool) (opcode : BitVec 4) (hdrw plen : Nat) :
    (s.decodeResult em fin masked opcode hdrw plen).status = statusWord false true (maskMismatch masked em) 0#4 := rfl

@[simp] theorem State.decodeResult_ilen (s : State) (em fin masked : Bool) (opcode : BitVec 4) (hdrw plen : Nat) :
    (s.decodeResult em fin masked opcode hdrw plen).ilen = s.ilen := rfl

@[simp] theorem State.decodeResult_olen (s : State) (em fin masked : Bool) (opcode : BitVec 4) (hdrw plen : Nat) :
    (s.decodeResult em fin masked opcode hdrw plen).olen = BitVec.ofNat 64 (s.framePayload masked (s.frameKey hdrw) (hdrw + keyWidth masked) plen).length := rfl

@[simp] theorem State.decodeResult_key (s : State) (em fin masked : Bool) (opcode : BitVec 4) (hdrw plen : Nat) :
    (s.decodeResult em fin masked opcode hdrw plen).key = if masked then s.frameKey hdrw else s.key := rfl

@[simp] theorem State.decodeResult_hdr (s : State) (em fin masked : Bool) (opcode : BitVec 4) (hdrw plen : Nat) :
    (s.decodeResult em fin masked opcode hdrw plen).hdr = hdrWord fin masked opcode := rfl

@[simp] theorem State.decodeResult_paylen (s : State) (em fin masked : Bool) (opcode : BitVec 4) (hdrw plen : Nat) :
    (s.decodeResult em fin masked opcode hdrw plen).paylen = BitVec.ofNat 64 plen := rfl

@[simp] theorem State.decodeResult_framelen (s : State) (em fin masked : Bool) (opcode : BitVec 4) (hdrw plen : Nat) :
    (s.decodeResult em fin masked opcode hdrw plen).framelen = BitVec.ofNat 64 (hdrw + keyWidth masked + plen) := rfl

@[simp] theorem State.decodeResult_latched (s : State) (em fin masked : Bool) (opcode : BitVec 4) (hdrw plen : Nat) :
    (s.decodeResult em fin masked opcode hdrw plen).latched = none := rfl

@[simp] theorem State.decodeResult_ibuf (s : State) (em fin masked : Bool) (opcode : BitVec 4) (hdrw plen : Nat) :
    (s.decodeResult em fin masked opcode hdrw plen).ibuf = s.ibuf := rfl

@[simp] theorem State.decodeResult_obuf (s : State) (em fin masked : Bool) (opcode : BitVec 4) (hdrw plen : Nat) :
    (s.decodeResult em fin masked opcode hdrw plen).obuf = Memory.ofBytes (s.framePayload masked (s.frameKey hdrw) (hdrw + keyWidth masked) plen) := rfl

@[simp] theorem State.decodeResult_ibufDraw (s : State) (em fin masked : Bool) (opcode : BitVec 4) (hdrw plen : Nat) :
    (s.decodeResult em fin masked opcode hdrw plen).ibufDraw = s.ibufDraw := rfl

@[simp] theorem State.decodeResult_obufDraw (s : State) (em fin masked : Bool) (opcode : BitVec 4) (hdrw plen : Nat) :
    (s.decodeResult em fin masked opcode hdrw plen).obufDraw = s.draws := rfl

@[simp] theorem State.decodeResult_draws (s : State) (em fin masked : Bool) (opcode : BitVec 4) (hdrw plen : Nat) :
    (s.decodeResult em fin masked opcode hdrw plen).draws = s.draws + 1 := rfl

@[simp] theorem State.decodeResult_moves (s : State) (em fin masked : Bool) (opcode : BitVec 4) (hdrw plen : Nat) :
    (s.decodeResult em fin masked opcode hdrw plen).moves = s.moves := rfl

@[simp] theorem State.decodeResult_readData (s : State) (em fin masked : Bool) (opcode : BitVec 4) (hdrw plen : Nat) :
    (s.decodeResult em fin masked opcode hdrw plen).readData = s.readData := rfl

@[simp] theorem State.encodeResult_cfg (s : State) (b0 : Byte) (mask : Bool) (r : Word32) :
    (s.encodeResult b0 mask r).cfg = s.cfg := rfl

@[simp] theorem State.encodeResult_status (s : State) (b0 : Byte) (mask : Bool) (r : Word32) :
    (s.encodeResult b0 mask r).status = statusWord false true false 0#4 := rfl

@[simp] theorem State.encodeResult_ilen (s : State) (b0 : Byte) (mask : Bool) (r : Word32) :
    (s.encodeResult b0 mask r).ilen = s.ilen := rfl

@[simp] theorem State.encodeResult_olen (s : State) (b0 : Byte) (mask : Bool) (r : Word32) :
    (s.encodeResult b0 mask r).olen = BitVec.ofNat 64 (encodedFrame b0 mask r s.input).length := rfl

@[simp] theorem State.encodeResult_key (s : State) (b0 : Byte) (mask : Bool) (r : Word32) :
    (s.encodeResult b0 mask r).key = if mask then r else s.key := rfl

@[simp] theorem State.encodeResult_hdr (s : State) (b0 : Byte) (mask : Bool) (r : Word32) :
    (s.encodeResult b0 mask r).hdr = hdrWord true mask 1#4 := rfl

@[simp] theorem State.encodeResult_paylen (s : State) (b0 : Byte) (mask : Bool) (r : Word32) :
    (s.encodeResult b0 mask r).paylen = BitVec.ofNat 64 s.inLen := rfl

@[simp] theorem State.encodeResult_framelen (s : State) (b0 : Byte) (mask : Bool) (r : Word32) :
    (s.encodeResult b0 mask r).framelen = BitVec.ofNat 64 (encodedFrame b0 mask r s.input).length := rfl

@[simp] theorem State.encodeResult_latched (s : State) (b0 : Byte) (mask : Bool) (r : Word32) :
    (s.encodeResult b0 mask r).latched = none := rfl

@[simp] theorem State.encodeResult_ibuf (s : State) (b0 : Byte) (mask : Bool) (r : Word32) :
    (s.encodeResult b0 mask r).ibuf = s.ibuf := rfl

@[simp] theorem State.encodeResult_obuf (s : State) (b0 : Byte) (mask : Bool) (r : Word32) :
    (s.encodeResult b0 mask r).obuf = Memory.ofBytes (encodedFrame b0 mask r s.input) := rfl

@[simp] theorem State.encodeResult_ibufDraw (s : State) (b0 : Byte) (mask : Bool) (r : Word32) :
    (s.encodeResult b0 mask r).ibufDraw = s.ibufDraw := rfl

@[simp] theorem State.encodeResult_obufDraw (s : State) (b0 : Byte) (mask : Bool) (r : Word32) :
    (s.encodeResult b0 mask r).obufDraw = s.draws := rfl

@[simp] theorem State.encodeResult_draws (s : State) (b0 : Byte) (mask : Bool) (r : Word32) :
    (s.encodeResult b0 mask r).draws = s.draws + 1 := rfl

@[simp] theorem State.encodeResult_moves (s : State) (b0 : Byte) (mask : Bool) (r : Word32) :
    (s.encodeResult b0 mask r).moves = s.moves := rfl

@[simp] theorem State.encodeResult_readData (s : State) (b0 : Byte) (mask : Bool) (r : Word32) :
    (s.encodeResult b0 mask r).readData = s.readData := rfl

end Sys2Proof.Machine
end

