-- ==== Sys2Proof/Laws/Operands.lean ====
section
/-! SUPPORT. How arguments are read: slices of IBUF, the bytes of a key, the masking transform. -/

namespace Sys2Proof.Machine

@[simp] theorem State.ibufSlice_length (s : State) (a n : Nat) : (s.ibufSlice a n).length = n := by
  induction n generalizing a with
  | zero => rfl
  | succ n ih => simp [State.ibufSlice, ih]

/-- Byte `i` of a slice of IBUF. -/
theorem State.ibufSlice_getElem? (s : State) (a n i : Nat) (h : i < n) :
    (s.ibufSlice a n)[i]? = some (s.ibufByte (a + i)) := by
  induction n generalizing a i with
  | zero => omega
  | succ n ih =>
    cases i with
    | zero => simp [State.ibufSlice]
    | succ i =>
      simp only [State.ibufSlice, List.getElem?_cons_succ]
      rw [ih (a + 1) i (by omega)]
      congr 2; omega

/-- A slice depends on its own bytes alone (R56). -/
theorem State.ibufSlice_congr (s u : State) (a n : Nat)
    (h : ∀ i, a ≤ i → i < a + n → u.ibufByte i = s.ibufByte i) : u.ibufSlice a n = s.ibufSlice a n := by
  induction n generalizing a with
  | zero => rfl
  | succ n ih =>
    simp only [State.ibufSlice]
    rw [h a (by omega) (by omega), ih (a + 1) (fun i h1 h2 => h i (by omega) (by omega))]

@[simp] theorem State.input_length (s : State) : s.input.length = s.inLen := by simp [State.input]

/-- Byte `i` of the input. -/
theorem State.input_getElem? (s : State) (i : Nat) (h : i < s.inLen) : s.input[i]? = some (s.ibufByte i) := by
  simp [State.input, State.ibufSlice_getElem? s 0 s.inLen i h]

/-- The input is IBUF[0 .. ILEN), byte by byte. -/
theorem State.input_eq (s : State) : s.input = (List.range s.inLen).map s.ibufByte := by
  apply List.ext_getElem?
  intro i
  by_cases h : i < s.inLen
  · rw [s.input_getElem? i h]; simp [h]
  · rw [List.getElem?_eq_none (by simpa using h), List.getElem?_eq_none (by simpa using h)]

theorem State.inLen_lt (s : State) : s.inLen < 2 ^ 64 := s.ilen.isLt

@[simp] theorem maskFrom_length (key : Word32) (i : Nat) (p : List Byte) : (maskFrom key i p).length = p.length := by
  induction p generalizing i with
  | nil => rfl
  | cons b p ih => simp [maskFrom, ih]

@[simp] theorem maskBytes_length (key : Word32) (p : List Byte) : (maskBytes key p).length = p.length := by
  simp [maskBytes]

theorem maskFrom_getElem? (key : Word32) (j i : Nat) (p : List Byte) :
    (maskFrom key j p)[i]? = (p[i]?).map (fun b => b ^^^ keyByte key ((j + i) % 4)) := by
  induction p generalizing j i with
  | nil => simp [maskFrom]
  | cons b p ih =>
    cases i with
    | zero => simp [maskFrom]
    | succ i =>
      simp only [maskFrom, List.getElem?_cons_succ, ih, show j + 1 + i = j + (i + 1) by omega]

/-- Byte `i` of the transform: the byte XOR `key[i mod 4]` (R100). -/
theorem maskBytes_getElem? (key : Word32) (i : Nat) (p : List Byte) :
    (maskBytes key p)[i]? = (p[i]?).map (fun b => b ^^^ keyByte key (i % 4)) := by
  simp [maskBytes, maskFrom_getElem?]

/-- `key[i]` as a number: byte `i` of KEY read big-endian (R53). -/
theorem keyByte_eq (key : Word32) (i : Nat) (h : i < 4) :
    keyByte key i = BitVec.ofNat 8 (key.toNat / 256 ^ (3 - i)) := by
  apply BitVec.eq_of_toNat_eq
  rw [keyByte, BitVec.extractLsb'_toNat, BitVec.toNat_ofNat, Nat.shiftRight_eq_div_pow]
  congr 2
  rw [show 256 = 2 ^ 8 from rfl, ← pow_mul]
  congr 1; omega

/-- A key read from a frame: `key[i]` is the byte at `hdrw + i` (R53, R76). -/
theorem keyByte_ofBytes (bs : List Byte) (h : bs.length = 4) (i : Nat) (hi : i < 4) :
    some (keyByte (BitVec.ofNat 32 (bytesToNat bs)) i) = bs[i]? := by
  match bs, h with
  | [a, b, c, d], _ =>
    rw [keyByte_eq _ _ hi, BitVec.toNat_ofNat]
    have ha := a.isLt; have hb := b.isLt; have hc := c.isLt; have hd := d.isLt
    simp only [bytesToNat_cons, bytesToNat_nil, List.length_cons, List.length_nil]
    rw [Nat.mod_eq_of_lt (by omega)]
    interval_cases i <;> simp only [List.getElem?_cons_succ, List.getElem?_cons_zero, Option.some.injEq] <;>
      apply BitVec.eq_of_toNat_eq <;> rw [BitVec.toNat_ofNat] <;> omega

/-- The check every operation makes first has two ends: IllegalCommand, or the rest of the operation (R86). -/
theorem State.checkLength_cases (s run : State) :
    (s.cfg.ibufSize < s.inLen ∧ s.checkLength run = s.raise .illegalCommand) ∨
      (s.inLen ≤ s.cfg.ibufSize ∧ s.checkLength run = run) := by
  unfold State.checkLength
  split
  · exact .inl ⟨‹_›, rfl⟩
  · exact .inr ⟨by omega, rfl⟩

theorem State.checkLength_ok (s run : State) (h : s.inLen ≤ s.cfg.ibufSize) : s.checkLength run = run := by
  simp [State.checkLength, Nat.not_lt.2 h]

/-- What a completion leaves in byte `i` of OBUF: the result's byte, or a free value above it (R33). -/
theorem State.complete_obufByte (s : State) (err : BitVec 4) (mm : Bool) (r : List Byte) (i : Nat) :
    (s.complete err mm r).obufByte i = (r[i]?).getD (Config.anyObufByte s.draws i) := by
  simp [State.obufByte]

/-- OBUF[0 .. OLEN) after a completion is the result (R215). -/
theorem State.obufByte_of_obuf (t : State) (r : List Byte) (h : t.obuf = Memory.ofBytes r) (i : Nat) (b : Byte)
    (hb : r[i]? = some b) : t.obufByte i = b := by
  simp [State.obufByte, h, hb]

end Sys2Proof.Machine
end

