-- ==== Sys2Proof/Laws/Codec.lean ====
section
/-! SUPPORT. Once for each shared operation, everything it can do: the ends of a DECODE, of an ENCODE, and of exec. -/

namespace Sys2Proof.Machine

/-- The ends of a DECODE: IllegalCommand, an error of its own, or the result with every check passed (R160, R177). -/
theorem State.decodeFrame_cases (s : State) (em fin masked : Bool) (op : BitVec 4) (hdrw plen : Nat) :
    (s.cfg.ibufSize < s.inLen ∧ s.decodeFrame em fin masked op hdrw plen = s.raise .illegalCommand) ∨
    (s.inLen ≤ s.cfg.ibufSize ∧ ∃ e, s.decodeFrame em fin masked op hdrw plen = s.raiseDecode e) ∨
    (s.inLen ≤ s.cfg.ibufSize ∧ plen ≤ s.cfg.maxPayload ∧ hdrw + keyWidth masked + plen ≤ s.inLen ∧
      s.decodeFrame em fin masked op hdrw plen = s.decodeResult em fin masked op hdrw plen) := by
  unfold State.decodeFrame
  obtain ⟨h, e⟩ | ⟨h, e⟩ := s.checkLength_cases
    (if s.inLen < 2 then s.raiseDecode .headerTooShort
     else if s.inLen < hdrw then s.raiseDecode .truncatedFrame
     else if s.cfg.maxPayload < plen then s.raiseDecode .payloadTooLarge
     else if masked = true ∧ s.inLen < hdrw + 4 then s.raiseDecode .missingMaskKey
     else if s.inLen < hdrw + keyWidth masked + plen then s.raiseDecode .truncatedFrame
     else s.decodeResult em fin masked op hdrw plen)
  · exact .inl ⟨h, e⟩
  · rw [e]
    split
    · exact .inr (.inl ⟨h, _, rfl⟩)
    split
    · exact .inr (.inl ⟨h, _, rfl⟩)
    split
    · exact .inr (.inl ⟨h, _, rfl⟩)
    split
    · exact .inr (.inl ⟨h, _, rfl⟩)
    split
    · exact .inr (.inl ⟨h, _, rfl⟩)
    · exact .inr (.inr ⟨h, by omega, by omega, rfl⟩)

/-- The payload a DECODE returns has the length the header declares (R168). -/
@[simp] theorem State.framePayload_length (s : State) (masked : Bool) (key : Word32) (pos plen : Nat) :
    (s.framePayload masked key pos plen).length = plen := by
  unfold State.framePayload
  split <;> simp

/-- The ends of an ENCODE: an error that leaves every register but STATUS and OLEN, or the frame (R190, R191). -/
theorem State.encodeFrame_cases (s : State) (b0 : Byte) (mask : Bool) (r : Word32) :
    (∃ e, s.encodeFrame b0 mask r = s.raise e) ∨
    (s.inLen ≤ s.cfg.ibufSize ∧ s.inLen ≤ s.cfg.maxPayload ∧
      s.encodeFrame b0 mask r = s.encodeResult b0 mask r) := by
  unfold State.encodeFrame
  obtain ⟨_, e⟩ | ⟨h, e⟩ := s.checkLength_cases
    (if s.cfg.maxPayload < s.inLen then s.raise .payloadTooLarge else s.encodeResult b0 mask r)
  · exact .inl ⟨_, e⟩
  · rw [e]
    split
    · exact .inl ⟨_, rfl⟩
    · exact .inr ⟨h, by omega, rfl⟩

/-- The width of the length field: 1, 3 or 9 bytes (R193). -/
theorem lengthField_length (mask : Bool) (n : Nat) :
    (lengthField mask n).length = if n < 126 then 1 else if n ≤ 65535 then 3 else 9 := by
  unfold lengthField
  split
  · rfl
  split <;> simp

/-- The length of an emitted frame (R198). -/
theorem encodedFrame_length (b0 : Byte) (mask : Bool) (r : Word32) (p : List Byte) :
    (encodedFrame b0 mask r p).length =
      1 + (if p.length < 126 then 1 else if p.length ≤ 65535 then 3 else 9) + (if mask then 4 else 0) + p.length := by
  simp only [encodedFrame, List.length_cons, List.length_append, lengthField_length]
  cases mask <;> simp [keyBytes] <;> omega

/-- Everything an operation started in `s` can end in: an error of the shared kind, an error of DECODE, a success that leaves the
header registers, the result of a DECODE or of an ENCODE; with the bound on the result that its checks give (R57). -/
inductive OpEnd (s : State) : State → Prop where
  | raised (e : WsError) : OpEnd s (s.raise e)
  | raisedDecode (e : WsError) : OpEnd s (s.raiseDecode e)
  | succeeded (r : List Byte) (hlen : s.inLen ≤ s.cfg.ibufSize)
      (hfit : r.length ≤ 156 ∨ r.length ≤ s.cfg.obufSize ∧ r.length ≤ b64Length s.inLen) :
      OpEnd s (s.succeed false r)
  | decoded (em fin masked : Bool) (op : BitVec 4) (hdrw plen : Nat) (hmax : plen ≤ s.cfg.maxPayload)
      (hfit : hdrw + keyWidth masked + plen ≤ s.inLen) :
      OpEnd s (s.decodeResult em fin masked op hdrw plen)
  | encoded (b0 : Byte) (mask : Bool) (r : Word32) (hlen : s.inLen ≤ s.cfg.ibufSize)
      (hmax : s.inLen ≤ s.cfg.maxPayload) : OpEnd s (s.encodeResult b0 mask r)

theorem OpEnd.checkLength {s run : State} (h : s.inLen ≤ s.cfg.ibufSize → OpEnd s run) :
    OpEnd s (s.checkLength run) := by
  obtain ⟨_, e⟩ | ⟨hl, e⟩ := s.checkLength_cases run
  · rw [e]; exact .raised _
  · rw [e]; exact h hl

theorem OpEnd.decodeFrame (s : State) (em fin masked : Bool) (op : BitVec 4) (hdrw plen : Nat) :
    OpEnd s (s.decodeFrame em fin masked op hdrw plen) := by
  obtain ⟨_, e⟩ | ⟨_, _, e⟩ | ⟨_, h1, h2, e⟩ := s.decodeFrame_cases em fin masked op hdrw plen <;> rw [e]
  · exact .raised _
  · exact .raisedDecode _
  · exact .decoded _ _ _ _ _ _ h1 h2

theorem OpEnd.encodeFrame (s : State) (b0 : Byte) (mask : Bool) (r : Word32) :
    OpEnd s (s.encodeFrame b0 mask r) := by
  obtain ⟨_, e⟩ | ⟨h1, h2, e⟩ := s.encodeFrame_cases b0 mask r <;> rw [e]
  · exact .raised _
  · exact .encoded _ _ _ h1 h2

/-- Every operation on every state answers a next state, one of those ends. -/
theorem exec_ends (i : Instr) (s : State) : ∃ t, exec i s = .next t ∧ OpEnd s t := by
  cases i with
  | decode em => exact ⟨_, rfl, .decodeFrame ..⟩
  | encode mask => exact ⟨_, rfl, .encodeFrame ..⟩
  | negotiate =>
    refine ⟨_, rfl, .checkLength fun hl => ?_⟩
    split
    · exact .raised _
    · exact .succeeded _ hl (.inl (hsResponse_hsAccept_length _).le)
  | maskxor =>
    refine ⟨_, rfl, .checkLength fun hl => ?_⟩
    split
    · exact .raised _
    · exact .succeeded _ hl (.inr (by simp [b64Length]; omega))
  | sha1 => exact ⟨_, rfl, .checkLength fun hl => .succeeded _ hl (.inl (by simp))⟩
  | b64enc =>
    refine ⟨_, rfl, .checkLength fun hl => ?_⟩
    split
    · exact .raised _
    · exact .succeeded _ hl (.inr (by simp; omega))
  | reservedOp0 rest => exact ⟨_, rfl, .raised _⟩
  | reservedOp7 rest => exact ⟨_, rfl, .raised _⟩
  | reservedOp8_15 low rest => exact ⟨_, rfl, .raised _⟩
  | f16u fin rsv op => exact ⟨_, rfl, .decodeFrame ..⟩
  | f16m fin rsv op => exact ⟨_, rfl, .decodeFrame ..⟩
  | f64u fin rsv op => exact ⟨_, rfl, .decodeFrame ..⟩
  | f64m fin rsv op => exact ⟨_, rfl, .decodeFrame ..⟩
  | f7u fin rsv op len7 => exact ⟨_, rfl, .decodeFrame ..⟩
  | f7m fin rsv op len7 => exact ⟨_, rfl, .decodeFrame ..⟩
  | encodeByte0 => exact ⟨_, rfl, .encodeFrame ..⟩

end Sys2Proof.Machine
end

