-- ==== Sys2Proof/Laws/Completion.lean ====
section
/-! SUPPORT. What each kind of completion leaves, in the terms of Safety: STATUS, OLEN, OBUF, the frame. -/

namespace Sys2Proof.Machine

theorem State.inBytes_eq_input (s : State) : s.inBytes = s.input := s.input_eq.symm

/-- A completion with an error of the shared kind: its code, OLEN 0, the frame (R216). -/
theorem State.raise_failedWith (s : State) (e : WsError) : s.FailedWith (s.raise e) (errorCode e).toNat :=
  ⟨⟨by simp [statusWord_toNat, bit], by simp, by simp⟩,
    by simp, by simp, by simp, by simp [State.ibufByte], by simp, by simp⟩

theorem State.raise_sameHeaderRegs (s : State) (e : WsError) : s.SameHeaderRegs (s.raise e) :=
  ⟨by simp, by simp, by simp, by simp⟩

/-- A completion with an error of DECODE: its code, OLEN 0, HDR's reserved bits 0, the frame (R176). -/
theorem State.raiseDecode_failedWith (s : State) (e : WsError) :
    s.FailedWith (s.raiseDecode e) (errorCode e).toNat ∧ (s.raiseDecode e).HdrReservedZero :=
  ⟨⟨⟨by simp [statusWord_toNat, bit], by simp, by simp⟩,
    by simp, by simp, by simp, by simp [State.ibufByte], by simp, by simp⟩,
    by simp [State.HdrReservedZero, hdrMaskReserved_reserved]⟩

/-- A completion with success: ERR 0, MM as given, OLEN the number of result bytes (R215). -/
theorem State.succeed_completed (s : State) (mm : Bool) (r : List Byte) (h : r.length < 2 ^ 64) :
    (s.succeed mm r).Completed 0 mm r.length := by
  refine ⟨by cases mm <;> simp [statusWord_toNat, bit], by simp, ?_⟩
  rw [State.succeed_olen, BitVec.toNat_ofNat, Nat.mod_eq_of_lt h]

theorem State.succeed_sameInput (s : State) (mm : Bool) (r : List Byte) : s.SameInput (s.succeed mm r) :=
  ⟨by simp, by simp, by simp, by simp [State.ibufByte], by simp, by simp⟩

theorem State.succeed_sameHeaderRegs (s : State) (mm : Bool) (r : List Byte) :
    s.SameHeaderRegs (s.succeed mm r) :=
  ⟨by simp, by simp, by simp, by simp⟩

/-- OBUF[0 .. OLEN) after a success is the result (R215). -/
theorem State.succeed_outBytes (s : State) (mm : Bool) (r : List Byte) (h : r.length < 2 ^ 64) :
    (s.succeed mm r).outBytes = r := by
  apply List.ext_getElem?
  intro i
  unfold State.outBytes
  rw [(s.succeed_completed mm r h).2.2]
  by_cases hi : i < r.length
  · simp [hi, State.obufByte]
  · rw [List.getElem?_eq_none (by simpa using hi), List.getElem?_eq_none (by simpa using hi)]

/-- No end of an operation writes the parameters, ILEN, IBUF or the model's moves (R33). -/
theorem OpEnd.sameInput {s t : State} (h : OpEnd s t) : s.SameInput t := by
  cases h <;> exact ⟨by simp, by simp, by simp, by simp [State.ibufByte], by simp, by simp⟩

end Sys2Proof.Machine
end

