-- ==== Sys2Proof/Laws/Header.lean ====
section
/-! SUPPORT. The header fields the meanings read are those of the spec's arithmetic in Safety; the key of a frame, byte by byte; where the checks of DECODE pass. -/

namespace Sys2Proof.Machine

theorem State.ibufNat_len16 (s : State) : s.ibufNat 2 2 = s.specLen16 := by
  simp [State.ibufNat, State.ibufSlice, bytesToNat_cons, State.specLen16]

theorem State.ibufNat_len64 (s : State) : s.ibufNat 2 8 = s.specLen64 := by
  simp [State.ibufNat, State.ibufSlice, bytesToNat_cons, State.specLen64, Nat.add_assoc]

theorem State.hdrLen7_spec (s : State) : (hdrLen7 (s.ibufByte 1)).toNat = s.specLen7 := by
  unfold State.specLen7
  generalize s.ibufByte 1 = b
  revert b; decide

theorem State.hdrFin_spec (s : State) : hdrFin (s.ibufByte 0) = s.specFin := by
  unfold State.specFin
  generalize s.ibufByte 0 = b
  revert b; decide

theorem State.hdrMasked_spec (s : State) : hdrMasked (s.ibufByte 1) = s.specMasked := by
  unfold State.specMasked
  generalize s.ibufByte 1 = b
  revert b; decide

theorem State.hdrOpcode_spec (s : State) : (hdrOpcode (s.ibufByte 0)).toNat = s.specOpcode := by
  unfold State.specOpcode
  generalize s.ibufByte 0 = b
  revert b; decide

theorem State.headerWidth_spec (s : State) : headerWidth (hdrLen7 (s.ibufByte 1)) = s.specHdrw := by
  simp [headerWidth, State.specHdrw, s.hdrLen7_spec]

theorem State.payloadLength_spec (s : State) : s.payloadLength (hdrLen7 (s.ibufByte 1)) = s.specPlen := by
  simp [State.payloadLength, State.specPlen, s.hdrLen7_spec, s.ibufNat_len16, s.ibufNat_len64]

theorem State.two_le_specHdrw (s : State) : 2 ≤ s.specHdrw := by
  unfold State.specHdrw
  split
  · omega
  · split <;> omega

/-- DECODE in the spec's terms: the shared operation on the fields of the header (R160, R162, R163). -/
theorem execDecode_spec (em : Bool) (s : State) :
    exec (.decode em) s = .next (s.decodeFrame em s.specFin s.specMasked (hdrOpcode (s.ibufByte 0)) s.specHdrw
      s.specPlen) := by
  rw [← s.hdrFin_spec, ← s.hdrMasked_spec, ← s.headerWidth_spec, ← s.payloadLength_spec]
  rfl

/-- `key[i]` of a frame is the byte at `hdrw + i` (R53, R76). -/
theorem State.frameKey_byte (s : State) (hdrw i : Nat) (hi : i < 4) :
    keyByte (s.frameKey hdrw) i = s.ibufByte (hdrw + i) := by
  have := keyByte_ofBytes (s.ibufSlice hdrw 4) (by simp) i hi
  rw [State.ibufSlice_getElem? _ _ _ _ hi] at this
  exact Option.some.inj this

/-- Where every check passes DECODE gives its result (R160). -/
theorem State.decodeFrame_ok (s : State) (em fin masked : Bool) (op : BitVec 4) (hdrw plen : Nat) (h2 : 2 ≤ hdrw)
    (h : s.FrameFits masked hdrw plen) :
    s.decodeFrame em fin masked op hdrw plen = s.decodeResult em fin masked op hdrw plen := by
  obtain ⟨a, b, c⟩ := h
  have e : keyWidth masked = specKeyw masked := rfl
  unfold State.decodeFrame
  rw [State.checkLength_ok _ _ a, if_neg (by omega), if_neg (by omega), if_neg (by omega), if_neg,
    if_neg (by omega)]
  rintro ⟨rfl, h⟩
  simp only [specKeyw, if_true] at c
  omega

end Sys2Proof.Machine
end

