-- ==== Sys2Proof/Laws/PerInstr.lean ====
section
/-! SUPPORT. Statements made per instruction: the family TableBits says that the encoding of an instruction has the width, and in the fixed bits the values, of its row of spec/opcode_table.json. -/

namespace Sys2Proof

/-- `width`, `mask` and `match` of the row (spec/opcode_table.json). -/
def tableMatch : Instr → Nat × Nat × Nat
  | .decode _ => (32, 0xFFFFFEFF, 0x00000001)
  | .encode _ => (32, 0xFFFFFEFF, 0x00000002)
  | .negotiate => (32, 0xFFFFFFFF, 0x00000003)
  | .maskxor => (32, 0xFFFFFFFF, 0x00000004)
  | .sha1 => (32, 0xFFFFFFFF, 0x00000005)
  | .b64enc => (32, 0xFFFFFFFF, 0x00000006)
  | .reservedOp0 _ => (32, 0x0000000F, 0x00000000)
  | .reservedOp7 _ => (32, 0x0000000F, 0x00000007)
  | .reservedOp8_15 _ _ => (32, 0x00000008, 0x00000008)
  | .f16u _ _ _ => (16, 0x00FF, 0x007E)
  | .f16m _ _ _ => (16, 0x00FF, 0x00FE)
  | .f64u _ _ _ => (16, 0x00FF, 0x007F)
  | .f64m _ _ _ => (16, 0x00FF, 0x00FF)
  | .f7u _ _ _ _ => (16, 0x0080, 0x0000)
  | .f7m _ _ _ _ => (16, 0x0080, 0x0080)
  | .encodeByte0 => (8, 0xFF, 0x81)

/-- Width and numeric value of a code, numbered as the table numbers it. -/
def codeValue : Code → Nat × Nat
  | .command w => (32, w.toNat)
  | .header b0 b1 => (16, b0.toNat * 256 + b1.toNat)
  | .firstByte b => (8, b.toNat)

end Sys2Proof

namespace Sys2Proof.Laws.TableBits

/-- The encoding has the row's width, and under the row's mask the row's match. -/
def Statement (i : Instr) : Prop :=
  (codeValue (encode i)).1 = (tableMatch i).1 ∧
    (codeValue (encode i)).2 &&& (tableMatch i).2.1 = (tableMatch i).2.2

theorem command_flagged (op : BitVec 4) (flag : Bool) :
    (commandWord op flag).toNat &&& 0xFFFFFEFF = op.toNat := by
  revert op flag; decide

theorem command_plain (op : BitVec 4) : (commandWord op false).toNat &&& 0xFFFFFFFF = op.toNat := by
  revert op; decide

theorem reserved_low (op : BitVec 4) (rest : BitVec 28) : (reservedWord op rest).toNat &&& 0xF = op.toNat := by
  rw [show 0xF = 2 ^ 4 - 1 from rfl, Nat.and_two_pow_sub_one_eq_mod, reservedWord, BitVec.toNat_append,
    Nat.shiftLeft_eq, Nat.mul_comm, ← Nat.two_pow_add_eq_or_of_lt op.isLt, Nat.mul_add_mod,
    Nat.mod_eq_of_lt op.isLt]

theorem header_byte1 (b0 b1 : Byte) (m : Nat) (h : m < 256) :
    (b0.toNat * 256 + b1.toNat) &&& m = b1.toNat &&& m := by
  have hb := b1.isLt
  rw [show 256 = 2 ^ 8 from rfl, Nat.mul_comm, Nat.two_pow_add_eq_or_of_lt hb, Nat.and_or_distrib_right]
  have : 2 ^ 8 * b0.toNat &&& m = 0 := by
    apply Nat.eq_of_testBit_eq
    intro i
    rw [Nat.testBit_and, Nat.zero_testBit, Nat.testBit_two_pow_mul]
    by_cases hi : 8 ≤ i
    · rw [Nat.testBit_lt_two_pow (lt_of_lt_of_le h (show 256 ≤ 2 ^ i from Nat.pow_le_pow_right (n := 2) (by omega) hi))]
      simp
    · simp [hi]
  rw [this, Nat.zero_or]

theorem byte1_mask_bit (masked : Bool) (len7 : BitVec 7) :
    (headerByte1 masked len7).toNat &&& 0x80 = if masked then 0x80 else 0 := by
  revert masked len7; decide

theorem decode (em : Bool) : Statement (.decode em) :=
  ⟨rfl, command_flagged 1#4 em⟩

theorem encode (mask : Bool) : Statement (.encode mask) :=
  ⟨rfl, command_flagged 2#4 mask⟩

theorem negotiate : Statement (.negotiate) :=
  ⟨rfl, command_plain 3#4⟩

theorem maskxor : Statement (.maskxor) :=
  ⟨rfl, command_plain 4#4⟩

theorem sha1 : Statement (.sha1) :=
  ⟨rfl, command_plain 5#4⟩

theorem b64enc : Statement (.b64enc) :=
  ⟨rfl, command_plain 6#4⟩

theorem reservedOp0 (rest : BitVec 28) : Statement (.reservedOp0 rest) :=
  ⟨rfl, reserved_low 0#4 rest⟩

theorem reservedOp7 (rest : BitVec 28) : Statement (.reservedOp7 rest) :=
  ⟨rfl, reserved_low 7#4 rest⟩

theorem reservedOp8_15 (low : BitVec 3) (rest : BitVec 28) : Statement (.reservedOp8_15 low rest) :=
  by
  refine ⟨rfl, ?_⟩
  have h := reserved_low (1#1 ++ low) rest
  show (reservedWord (1#1 ++ low) rest).toNat &&& 0x8 = 0x8
  rw [show (0x8 : Nat) = 0xF &&& 0x8 from rfl, ← Nat.and_assoc, h]
  clear h
  revert low; decide

theorem f16u (fin : Bool) (rsv : BitVec 3) (opcode : BitVec 4) : Statement (.f16u fin rsv opcode) :=
  ⟨rfl, (header_byte1 _ _ 0xFF (by decide)).trans rfl⟩

theorem f16m (fin : Bool) (rsv : BitVec 3) (opcode : BitVec 4) : Statement (.f16m fin rsv opcode) :=
  ⟨rfl, (header_byte1 _ _ 0xFF (by decide)).trans rfl⟩

theorem f64u (fin : Bool) (rsv : BitVec 3) (opcode : BitVec 4) : Statement (.f64u fin rsv opcode) :=
  ⟨rfl, (header_byte1 _ _ 0xFF (by decide)).trans rfl⟩

theorem f64m (fin : Bool) (rsv : BitVec 3) (opcode : BitVec 4) : Statement (.f64m fin rsv opcode) :=
  ⟨rfl, (header_byte1 _ _ 0xFF (by decide)).trans rfl⟩

theorem f7u (fin : Bool) (rsv : BitVec 3) (opcode : BitVec 4) (len7 : BitVec 7) : Statement (.f7u fin rsv opcode len7) :=
  ⟨rfl, (header_byte1 _ _ 0x80 (by decide)).trans (byte1_mask_bit false len7)⟩

theorem f7m (fin : Bool) (rsv : BitVec 3) (opcode : BitVec 4) (len7 : BitVec 7) : Statement (.f7m fin rsv opcode len7) :=
  ⟨rfl, (header_byte1 _ _ 0x80 (by decide)).trans (byte1_mask_bit true len7)⟩

theorem encodeByte0 : Statement (.encodeByte0) :=
  ⟨rfl, rfl⟩

end Sys2Proof.Laws.TableBits
end

