-- ==== Sys2Proof/Laws/Step.lean ====
section
/-! SUPPORT. Once for each move, everything it can do; and what the step does on a given list of moves. -/

namespace Sys2Proof.Machine

/-- A completion of any word, one the decoder rejects included, is one of the ends of an operation (R21, R86). -/
theorem runCommand_ends (w : Word32) (s : State) : ∃ t, runCommand w s = .next t ∧ OpEnd s t := by
  unfold runCommand
  split
  · exact exec_ends _ _
  · exact ⟨_, rfl, .raised _⟩

/-- The block's turn: nothing outside BUSY, an operation's end in BUSY (R21, R226). -/
theorem blockTurn_cases (s : State) :
    blockTurn s = .next s ∨ (s.busy = true ∧ ∃ w t, s.latched = some w ∧ blockTurn s = runCommand w s ∧
      blockTurn s = .next t ∧ OpEnd s t) := by
  unfold blockTurn
  split
  · rename_i w hb hl
    obtain ⟨t, ht, he⟩ := runCommand_ends w s
    exact .inr ⟨hb, w, t, hl, rfl, ht, he⟩
  · exact .inl rfl

theorem blockTurn_busy (s : State) (w : Word32) (hb : s.busy = true) (hl : s.latched = some w) :
    blockTurn s = runCommand w s := by
  simp [blockTurn, hb, hl]

/-- Every next state a move can lead to (R21, R251). -/
theorem takeMove_cases (m : Move) (s t : State) (h : takeMove m s = .next t) :
    t = s ∨
    (s.busy = true ∧ s.latched.isSome = true ∧ OpEnd s t) ∨
    t = s.resetEvent ∨
    (∃ v, t = { s with readData := some v }) ∨
    (s.busy = false ∧ ∃ w, t = s.issue w) ∨
    (s.busy = false ∧ ∃ v, t = { s with ilen := v }) ∨
    (s.busy = false ∧ ∃ v, t = { s with key := v }) ∨
    (s.busy = false ∧ ∃ i b, i < s.cfg.ibufSize ∧ t = { s with ibuf := s.ibuf.write i b }) := by
  have idle : ∀ a : Host.Outcome State Fault Refusal, s.idleOnly a = .next t → s.busy = false ∧ a = .next t := by
    intro a ha
    unfold State.idleOnly at ha
    split at ha
    · cases ha
    · exact ⟨by simpa using ‹¬s.busy = true›, ha⟩
  cases m with
  | blockTurn =>
    obtain hn | ⟨hb, w, u, hl, _, hu, he⟩ := blockTurn_cases s
    · exact .inl (by have := hn.symm.trans h; cases this; rfl)
    · have := hu.symm.trans h
      cases this
      exact .inr (.inl ⟨hb, by simp [hl], he⟩)
  | assertReset => cases h; exact .inr (.inr (.inl rfl))
  | readReg i =>
    simp only [takeMove, hostReadReg] at h
    split at h
    · cases h
    · split at h
      · cases h; exact .inr (.inr (.inr (.inl ⟨_, rfl⟩)))
      · cases h
  | writeReg i v =>
    obtain ⟨hb, h⟩ := idle _ h
    unfold State.setRegister at h
    split at h
    · rename_i u hu
      cases h
      split at hu <;> first | (cases hu; done) | skip
      · cases hu; exact .inr (.inr (.inr (.inr (.inl ⟨hb, _, rfl⟩))))
      · cases hu; exact .inl rfl
      · cases hu; exact .inr (.inr (.inr (.inr (.inr (.inl ⟨hb, _, rfl⟩)))))
      · cases hu; exact .inl rfl
      · cases hu; exact .inr (.inr (.inr (.inr (.inr (.inr (.inl ⟨hb, _, rfl⟩))))))
      all_goals (cases hu; exact .inl rfl)
    · cases h
  | readIbuf i =>
    obtain ⟨_, h⟩ := idle _ h
    split at h
    · cases h; exact .inr (.inr (.inr (.inl ⟨_, rfl⟩)))
    · cases h
  | writeIbuf i b =>
    obtain ⟨hb, h⟩ := idle _ h
    split at h
    · cases h; exact .inr (.inr (.inr (.inr (.inr (.inr (.inr ⟨hb, i, b, ‹_›, rfl⟩))))))
    · cases h
  | readObuf i =>
    obtain ⟨_, h⟩ := idle _ h
    split at h
    · cases h; exact .inr (.inr (.inr (.inl ⟨_, rfl⟩)))
    · cases h
  | writeObuf i b =>
    obtain ⟨_, h⟩ := idle _ h
    split at h
    · cases h; exact .inl rfl
    · cases h

theorem step_cons (s : State) (m : Move) (rest : List Move) (h : s.moves = m :: rest) :
    step s = takeMove m { s with moves := rest } := by
  simp [step, nextMove, h]

theorem step_nil (s : State) (h : s.moves = []) : step s = blockTurn s := by
  simp [step, nextMove, h, takeMove]

end Sys2Proof.Machine
end

