-- ==== Sys2Proof/Tests/Slice0.lean ====
section
/-! SUPPORT. The model's own tests: the smoke test of the well-formedness checks, words written out from the spec's encodings, one step on small states with results taken from spec/95_test_vectors.md, and for each statement that has hypotheses concrete witnesses that meet them. -/

namespace Sys2Proof.Tests

open Sys2Proof Sys2Proof.Machine

/-! ## Helpers -/

/-- The reset state in BUSY with word `w` latched and `bs` loaded: the program `LOAD bs` with the command `w` issued. -/
def load (w : Word32) (bs : List Byte) : State :=
  { State.reset with
    status := 1#32, latched := some w, ibuf := Memory.ofBytes bs, ilen := BitVec.ofNat 64 bs.length }

/-- `s` with other parameters. -/
def withCfg (s : State) (ibufSize obufSize maxPayload : Nat) : State :=
  { s with cfg := { ibufSize := ibufSize, obufSize := obufSize, maxPayload := maxPayload } }

/-- `s` with ILEN `n`. -/
def withIlen (s : State) (n : Nat) : State := { s with ilen := BitVec.ofNat 64 n }

/-- `s` in IDLE with the moves `ms` to come. -/
def idleWith (ms : List Move) : State := { State.reset with moves := ms }

/-- A next state, seen through `f`. -/
def see {α : Type} (f : State → α) (o : Host.Outcome State Fault Refusal) : Option α :=
  match o with
  | .next t => some (f t)
  | .fault _ => none
  | .refused _ => none

/-- STATUS and OBUF[0 .. OLEN). -/
def out (o : Host.Outcome State Fault Refusal) : Option (Word32 × List Byte) := see (fun t => (t.status, t.outBytes)) o

/-- STATUS and OLEN. -/
def ends (o : Host.Outcome State Fault Refusal) : Option (Word32 × Word64) := see (fun t => (t.status, t.olen)) o

/-- HDR, PAYLEN, FRAMELEN and KEY. -/
def regs (o : Host.Outcome State Fault Refusal) : Option (Word32 × Word64 × Word64 × Word32) :=
  see (fun t => (t.hdr, t.paylen, t.framelen, t.key)) o

/-- "Hello" -/
def hello : List Byte := [0x48#8, 0x65#8, 0x6c#8, 0x6c#8, 0x6f#8]

/-- "Hello" masked with 37 fa 21 3d (V61). -/
def helloMasked : List Byte := [0x7f#8, 0x9f#8, 0x4d#8, 0x51#8, 0x58#8]

/-- The key of V61 in wire order. -/
def wireKey : List Byte := [0x37#8, 0xfa#8, 0x21#8, 0x3d#8]

/-- `Sec-WebSocket-Key:abc` (V43). -/
def request43 : List Byte :=
  [0x53#8, 0x65#8, 0x63#8, 0x2d#8, 0x57#8, 0x65#8, 0x62#8, 0x53#8, 0x6f#8, 0x63#8, 0x6b#8, 0x65#8, 0x74#8, 0x2d#8,
   0x4b#8, 0x65#8, 0x79#8, 0x3a#8, 0x61#8, 0x62#8, 0x63#8]

/-! ## Well-formedness -/

/-- R73, R75: the base lengths 126 and 127 belong to other formats. -/
theorem test_wellFormed_refuses_f7u_126 : (Instr.f7u true 0#3 1#4 126#7).wellFormed = false := by decide
theorem test_wellFormed_refuses_f7u_127 : (Instr.f7u false 0#3 0#4 127#7).wellFormed = false := by decide
theorem test_wellFormed_refuses_f7m_126 : (Instr.f7m true 0#3 1#4 126#7).wellFormed = false := by decide
theorem test_wellFormed_refuses_f7m_127 : (Instr.f7m false 7#3 15#4 127#7).wellFormed = false := by decide
theorem test_wellFormed_admits_125 :
    (Instr.f7u true 7#3 15#4 125#7).wellFormed = true ∧ (Instr.f7m true 7#3 15#4 125#7).wellFormed = true := by decide

/-! ## Decoding: words written out bit by bit -/

/-- R83, R84: bits 31:9 zero, FLAG, bits 7:4 zero, OP. -/
theorem test_decode_command_words :
    decode (.command 0b00000000000000000000000_0_0000_0001#32) = .ok (.decode false) ∧
    decode (.command 0b00000000000000000000000_1_0000_0001#32) = .ok (.decode true) ∧
    decode (.command 0b00000000000000000000000_0_0000_0010#32) = .ok (.encode false) ∧
    decode (.command 0b00000000000000000000000_1_0000_0010#32) = .ok (.encode true) ∧
    decode (.command 0b00000000000000000000000_0_0000_0011#32) = .ok .negotiate ∧
    decode (.command 0b00000000000000000000000_0_0000_0100#32) = .ok .maskxor ∧
    decode (.command 0b00000000000000000000000_0_0000_0101#32) = .ok .sha1 ∧
    decode (.command 0b00000000000000000000000_0_0000_0110#32) = .ok .b64enc := by decide

/-- R86: OP 0, 7, 8 and 15, the other bits whatever they are. -/
theorem test_decode_reserved_codes :
    decode (.command 0x00000000#32) = .ok (.reservedOp0 0#28) ∧
    decode (.command 0xABCDEF10#32) = .ok (.reservedOp0 0xABCDEF1#28) ∧
    decode (.command 0x00000017#32) = .ok (.reservedOp7 1#28) ∧
    decode (.command 0x00000008#32) = .ok (.reservedOp8_15 0#3 0#28) ∧
    decode (.command 0x8000000F#32) = .ok (.reservedOp8_15 7#3 0x8000000#28) := by decide

/-- V115, V116: words no row matches. -/
theorem test_decode_rejects_by_name :
    decode (.command 0x00000103#32) = .error .flagMustBeZero ∧
    decode (.command 0x00000106#32) = .error .flagMustBeZero ∧
    decode (.command 0x00000011#32) = .error .reservedBitSet ∧
    decode (.command 0x00000201#32) = .error .reservedBitSet ∧
    decode (.command 0x80000001#32) = .error .reservedBitSet ∧
    decode (.firstByte 0x01#8) = .error .notEmitted := by decide

/-- R71, R72, R75: fin, rsv, opcode, then masked, len7. -/
theorem test_decode_header_words :
    decode (.header 0b1_000_0001#8 0b0_1111101#8) = .ok (.f7u true 0#3 1#4 125#7) ∧
    decode (.header 0b0_101_1001#8 0b1_0000011#8) = .ok (.f7m false 5#3 9#4 3#7) ∧
    decode (.header 0b1_000_0010#8 0b0_1111110#8) = .ok (.f16u true 0#3 2#4) ∧
    decode (.header 0b0_111_0000#8 0b1_1111110#8) = .ok (.f16m false 7#3 0#4) ∧
    decode (.header 0b1_010_1000#8 0b0_1111111#8) = .ok (.f64u true 2#3 8#4) ∧
    decode (.header 0b0_000_1111#8 0b1_1111111#8) = .ok (.f64m false 0#3 15#4) := by decide

/-- R192: 0x81. -/
theorem test_decode_first_byte : decode (.firstByte 0b1_000_0001#8) = .ok .encodeByte0 := by decide

/-- The encoder writes the same words. -/
theorem test_encode_words :
    encode (.decode true) = .command 0x00000101#32 ∧ encode .b64enc = .command 0x00000006#32 ∧
    encode (.reservedOp8_15 7#3 0x8000000#28) = .command 0x8000000F#32 ∧
    encode (.f7m false 5#3 9#4 3#7) = .header 0x59#8 0x83#8 ∧ encode (.f64u true 2#3 8#4) = .header 0xA8#8 0x7F#8 := by
  decide

/-! ## Instructions -/

/-- V1. -/
theorem test_maskxor_v1 :
    out (exec .maskxor { load 4#32 hello with key := 0x37FA213D#32 }) = some (2#32, helloMasked) := by decide
/-- V8: KEY[31:24] is applied to byte 0. -/
theorem test_maskxor_v8 :
    out (exec .maskxor { load 4#32 (List.replicate 7 0#8) with key := 0x04030201#32 }) =
      some (2#32, [4#8, 3#8, 2#8, 1#8, 4#8, 3#8, 2#8]) := by decide

set_option maxRecDepth 100000 in
/-- V31. -/
theorem test_sha1_v31 :
    out (exec .sha1 (load 5#32 [])) =
      some (2#32, [0xda#8, 0x39#8, 0xa3#8, 0xee#8, 0x5e#8, 0x6b#8, 0x4b#8, 0x0d#8, 0x32#8, 0x55#8, 0xbf#8, 0xef#8,
        0x95#8, 0x60#8, 0x18#8, 0x90#8, 0xaf#8, 0xd8#8, 0x07#8, 0x09#8]) := by decide +kernel

set_option maxRecDepth 100000 in
/-- V34: 56 bytes take two blocks. -/
theorem test_sha1_v34 :
    out (exec .sha1 (load 5#32 (List.replicate 56 0x61#8))) =
      some (2#32, [0xc2#8, 0xdb#8, 0x33#8, 0x0f#8, 0x60#8, 0x83#8, 0x85#8, 0x4c#8, 0x99#8, 0xd4#8, 0xb5#8, 0xbf#8,
        0xb6#8, 0xe8#8, 0xf2#8, 0x9f#8, 0x20#8, 0x1b#8, 0xe6#8, 0x99#8]) := by decide +kernel

/-- V37, `foob`: one whole group and one of one byte. -/
theorem test_b64enc_foob :
    out (exec .b64enc (load 6#32 [0x66#8, 0x6f#8, 0x6f#8, 0x62#8])) =
      some (2#32, [0x5a#8, 0x6d#8, 0x39#8, 0x76#8, 0x59#8, 0x67#8, 0x3d#8, 0x3d#8]) := by decide
/-- V37, `fb ff`: the characters `+` and `/`, one pad. -/
theorem test_b64enc_fbff :
    out (exec .b64enc (load 6#32 [0xfb#8, 0xff#8])) = some (2#32, [0x2b#8, 0x2f#8, 0x38#8, 0x3d#8]) := by decide

set_option maxRecDepth 100000 in
/-- V43: `zwKd5BnoWxQ6GxTxxSmBSHGHX9M=` between the literal lines of S7. -/
theorem test_negotiate_v43 :
    see (fun t => (t.status, t.olen, (t.outBytes.drop 120).take 36)) (exec .negotiate (load 3#32 request43)) =
      some (2#32, 156#64,
        [0x70#8, 0x74#8, 0x3a#8, 0x20#8,
         0x7a#8, 0x77#8, 0x4b#8, 0x64#8, 0x35#8, 0x42#8, 0x6e#8, 0x6f#8, 0x57#8, 0x78#8, 0x51#8, 0x36#8, 0x47#8, 0x78#8,
         0x54#8, 0x78#8, 0x78#8, 0x53#8, 0x6d#8, 0x42#8, 0x53#8, 0x48#8, 0x47#8, 0x48#8, 0x58#8, 0x39#8, 0x4d#8, 0x3d#8,
         0x0d#8, 0x0a#8, 0x0d#8, 0x0a#8]) := by decide +kernel
/-- S8, V54: no key. -/
theorem test_negotiate_v54 : ends (exec .negotiate (load 3#32 [])) = some (0x12#32, 0#64) := by decide

/-- V88: all as V61, but MM. -/
theorem test_decode_v88 :
    out (exec (.decode false) (load 1#32 ([0x81#8, 0x85#8] ++ wireKey ++ helloMasked))) = some (0x06#32, hello) ∧
    regs (exec (.decode false) (load 1#32 ([0x81#8, 0x85#8] ++ wireKey ++ helloMasked))) =
      some (0x13#32, 5#64, 11#64, 0x37FA213D#32) := by decide
/-- S4, S5, V68, V71, V79: the errors in their order. -/
theorem test_decode_errors :
    ends (exec (.decode false) (load 1#32 [0x81#8, 0x05#8])) = some (0x42#32, 0#64) ∧
    ends (exec (.decode true) (load 0x101#32 [0x81#8, 0x85#8])) = some (0x32#32, 0#64) ∧
    ends (exec (.decode true) (load 0x101#32 [])) = some (0x22#32, 0#64) ∧
    ends (exec (.decode true) (load 0x101#32 [0x81#8, 0xfe#8, 0#8])) = some (0x42#32, 0#64) ∧
    ends (exec (.decode true) (load 0x101#32 (0x81#8 :: List.replicate 9 0xff#8))) = some (0x52#32, 0#64) := by decide

/-- V92. -/
theorem test_encode_v92 :
    out (exec (.encode false) (load 2#32 hello)) = some (2#32, [0x81#8, 0x05#8] ++ hello) ∧
    regs (exec (.encode false) (load 2#32 hello)) = some (0x11#32, 5#64, 7#64, 0#32) := by decide
/-- V97: 126 bytes take the 16-bit form; V91 but for the key, which is free. -/
theorem test_encode_v97_v91 :
    see (fun t => (t.olen, t.outBytes.take 5)) (exec (.encode false) (load 2#32 (List.replicate 126 3#8))) =
      some (130#64, [0x81#8, 0x7e#8, 0x00#8, 0x7e#8, 3#8]) ∧
    see (fun t => (t.status, t.olen, t.obufByte 0, t.obufByte 1, t.hdr)) (exec (.encode true) (load 0x102#32 [])) =
      some (2#32, 6#64, 0x81#8, 0x80#8, 0x13#32) := by decide +kernel

/-- V113, V114. -/
theorem test_reserved_codes :
    ends (exec (.reservedOp0 0#28) (load 0#32 [])) = some (0x62#32, 0#64) ∧
    ends (exec (.reservedOp7 0#28) (load 7#32 [])) = some (0x62#32, 0#64) ∧
    ends (exec (.reservedOp8_15 7#3 0#28) (load 0xF#32 [])) = some (0x62#32, 0#64) := by decide

/-- V60. -/
theorem test_f7u_v60 :
    out (exec (.f7u true 0#3 1#4 5#7) (load 1#32 ([0x81#8, 0x05#8] ++ hello))) = some (2#32, hello) := by decide
/-- V84: the rsv bits are dropped. -/
theorem test_f7m_v84 :
    regs (exec (.f7m true 7#3 1#4 3#7)
      (load 0x101#32 [0xf1#8, 0x83#8, 0#8, 0#8, 0#8, 0#8, 0x61#8, 0x62#8, 0x63#8])) =
      some (0x13#32, 3#64, 9#64, 0#32) := by decide
/-- V73: a redundant 16-bit length. -/
theorem test_f16u_v73 :
    out (exec (.f16u true 0#3 1#4) (load 1#32 ([0x81#8, 0x7e#8, 0#8, 5#8] ++ hello))) = some (2#32, hello) := by decide
/-- V78. -/
theorem test_f16m_v78 :
    regs (exec (.f16m true 0#3 1#4) (load 0x101#32 [0x81#8, 0xfe#8, 0#8, 0#8, 0xde#8, 0xad#8, 0xbe#8, 0xef#8])) =
      some (0x13#32, 0#64, 8#64, 0xDEADBEEF#32) := by decide
/-- V74; V83: bit 63 of the length counts. -/
theorem test_f64u_v74_v83 :
    out (exec (.f64u true 0#3 1#4) (load 1#32 ([0x81#8, 0x7f#8] ++ (List.replicate 7 0#8 ++ [5#8] ++ hello)))) =
      some (2#32, hello) ∧
    ends (exec (.f64u true 0#3 1#4) (load 1#32 ([0x81#8, 0x7f#8, 0x80#8] ++ List.replicate 7 0#8))) =
      some (0x52#32, 0#64) := by decide
/-- V79: too large before the key is missed. -/
theorem test_f64m_v79 :
    ends (exec (.f64m true 0#3 1#4) (load 0x101#32 (0x81#8 :: List.replicate 9 0xff#8))) = some (0x52#32, 0#64) := by
  decide
/-- S9. -/
theorem test_encodeByte0_s9 :
    out (exec .encodeByte0 (load 2#32 [0x48#8, 0x69#8])) = some (2#32, [0x81#8, 0x02#8, 0x48#8, 0x69#8]) := by decide

/-! ## Steps -/

/-- V111, V116, V119, V124: one step each. -/
theorem test_steps :
    ends (step { load 1#32 [] with moves := [.blockTurn] }) = some (0x22#32, 0#64) ∧
    ends (step (load 0x80000001#32 [])) = some (0x62#32, 0#64) ∧
    see (fun t => (t.status, t.readData)) (step { load 5#32 [] with moves := [.readReg 1] }) = some (1#32, some 1#64) ∧
    see (fun t => (t.status, t.latched)) (step { load 5#32 hello with moves := [.assertReset] }) = some (0#32, none) := by
  decide
/-- V117: ILEN above IBUF_SIZE. -/
theorem test_step_v117 : ends (step (withIlen (load 5#32 []) 131073)) = some (0x62#32, 0#64) := by decide
/-- V110, V123: CMD reads 0; a write of STATUS is ignored. -/
theorem test_step_v110_v123 :
    see State.readData (step (idleWith [.readReg 0])) = some (some 0#64) ∧
    see State.status (step (idleWith [.writeReg 1 0xFFFFFFFF#64])) = some 0#32 := by decide

/-! ## Witnesses: for each statement with hypotheses, a state and operands that meet all of them -/

/-- DecodeOfEncodeIsTheInstruction. -/
theorem witness_wellFormed :
    (Instr.f7u true 7#3 15#4 125#7).wellFormed = true ∧ (Instr.f7m false 0#3 0#4 0#7).wellFormed = true ∧
    (Instr.reservedOp8_15 7#3 0xFFFFFFF#28).wellFormed = true := by decide

/-- EncodeOfDecodeIsTheCode: one code of each kind. -/
theorem witness_codes_decode :
    decode (.command 0xFFFFFFFF#32) = .ok (.reservedOp8_15 7#3 0xFFFFFFF#28) ∧
    decode (.header 0xFF#8 0xFF#8) = .ok (.f64m true 7#3 15#4) ∧ decode (.firstByte 0x81#8) = .ok .encodeByte0 := by
  decide

/-- HeaderBytesSelectOneFormat: the ends of every range. -/
theorem witness_header_ranges :
    tableRow (decodeHeader 0x81#8 0#8) = "F7U" ∧ tableRow (decodeHeader 0x81#8 125#8) = "F7U" ∧
    tableRow (decodeHeader 0x81#8 126#8) = "F16U" ∧ tableRow (decodeHeader 0x81#8 127#8) = "F64U" ∧
    tableRow (decodeHeader 0x81#8 128#8) = "F7M" ∧ tableRow (decodeHeader 0x81#8 253#8) = "F7M" ∧
    tableRow (decodeHeader 0x81#8 254#8) = "F16M" ∧ tableRow (decodeHeader 0x81#8 255#8) = "F64M" := by decide

/-- StepRunsTheDecodedInstruction: a turn given in the list, and the one taken where the list is empty. -/
theorem witness_turn :
    State.TurnWith { load 0x101#32 hello with moves := [.blockTurn, .readReg 1] } 0x101#32 [.readReg 1] ∧
    State.TurnWith (load 0x101#32 hello) 0x101#32 [] ∧ decode (.command 0x101#32) = .ok (.decode true) :=
  ⟨⟨rfl, rfl, .inl rfl⟩, ⟨rfl, rfl, .inr ⟨rfl, rfl⟩⟩, rfl⟩

/-- IllegalCommandInFull: each way a word is illegal, at its boundary. -/
theorem witness_illegal_words :
    IllegalWord 0x00000100#32 ∧ IllegalWord 0x00000007#32 ∧ IllegalWord 0x0000000F#32 ∧ IllegalWord 0x00000011#32 ∧
    IllegalWord 0x00000081#32 ∧ IllegalWord 0x00000201#32 ∧ IllegalWord 0x80000001#32 ∧ IllegalWord 0x00000103#32 ∧
    IllegalWord 0x00000106#32 := by simp [IllegalWord]

/-- IllegalCommandInFull: the turn with an illegal word, and with a legal one and ILEN = IBUF_SIZE + 1. -/
theorem witness_illegal_turns :
    State.TurnWith (load 0x103#32 []) 0x103#32 [] ∧
    State.TurnWith (withIlen (load 5#32 []) 131073) 5#32 [] ∧
    (withIlen (load 5#32 []) 131073).cfg.ibufSize < (withIlen (load 5#32 []) 131073).inLen :=
  ⟨⟨rfl, rfl, .inr ⟨rfl, rfl⟩⟩, ⟨rfl, rfl, .inr ⟨rfl, rfl⟩⟩, by decide⟩

/-- ReservedRowsCompleteWithIllegalCommand: each of the three rows. -/
theorem witness_reserved_rows :
    reservedInstr (.reservedOp0 0xFFFFFFF#28) = true ∧ reservedInstr (.reservedOp7 0#28) = true ∧
    reservedInstr (.reservedOp8_15 7#3 0#28) = true := by decide

/-- CmdWriteIssues. -/
theorem witness_cmd_write :
    (idleWith [.writeReg 0 0x101#64]).busy = false ∧
    (idleWith [.writeReg 0 0x101#64]).moves = .writeReg 0 ((0x101#32 : Word32).zeroExtend 64) :: [] := by decide

/-- RegisterReadsInIdle: the first and the last index. -/
theorem witness_register_reads :
    (idleWith [.readReg 0]).busy = false ∧ (idleWith [.readReg 0]).moves = .readReg 0 :: [] ∧
    (idleWith [.readReg 7]).busy = false ∧ (idleWith [.readReg 7]).moves = .readReg 7 :: [] := by decide

/-- RegisterWritesInIdle: a written register, and the first and the last that ignore it. -/
theorem witness_register_writes :
    (idleWith [.writeReg 2 5#64]).busy = false ∧ (idleWith [.writeReg 2 5#64]).moves = .writeReg 2 5#64 :: [] ∧
    (idleWith [.writeReg 4 5#64]).moves = .writeReg 4 5#64 :: [] ∧
    (idleWith [.writeReg 1 5#64]).moves = .writeReg 1 5#64 :: [] ∧
    (idleWith [.writeReg 7 5#64]).moves = .writeReg 7 5#64 :: [] := by decide

/-- IbufWriteWritesOneByte: the last index. -/
theorem witness_ibuf_write :
    (idleWith [.writeIbuf 131071 7#8]).busy = false ∧
    (idleWith [.writeIbuf 131071 7#8]).moves = .writeIbuf 131071 7#8 :: [] ∧
    131071 < (idleWith [.writeIbuf 131071 7#8]).cfg.ibufSize := by decide

/-- BufferReadsAndObufWritesInIdle: each clause at the last index. -/
theorem witness_buffer_accesses :
    (idleWith [.readIbuf 131071]).busy = false ∧ (idleWith [.readIbuf 131071]).moves = .readIbuf 131071 :: [] ∧
    131071 < (idleWith [.readIbuf 131071]).cfg.ibufSize ∧
    (idleWith [.readObuf 131071]).busy = false ∧ (idleWith [.readObuf 131071]).moves = .readObuf 131071 :: [] ∧
    131071 < (idleWith [.readObuf 131071]).cfg.obufSize ∧
    (idleWith [.writeObuf 131071 9#8]).busy = false ∧
    (idleWith [.writeObuf 131071 9#8]).moves = .writeObuf 131071 9#8 :: [] ∧
    131071 < (idleWith [.writeObuf 131071 9#8]).cfg.obufSize := by decide

/-- BusyAccessIsRefused: a state with the invariant, and a move of each clause. -/
theorem witness_busy_access :
    State.busy { load 5#32 hello with moves := [.readReg 1] } = true ∧
    State.Inv { load 5#32 hello with moves := [.readReg 1] } ∧
    State.busy { load 5#32 hello with moves := [.writeReg 1 0#64] } = true ∧
    Move.writeReg 1 0#64 ≠ .readReg 1 ∧ Move.writeReg 1 0#64 ≠ .blockTurn ∧ Move.writeReg 1 0#64 ≠ .assertReset := by
  decide

/-- AbsentRegisterOrByteIsRefused: the first absent index of each space, read and written. -/
theorem witness_absent :
    (idleWith [.readReg 8]).busy = false ∧ (idleWith [.readReg 8]).moves = .readReg 8 :: [] ∧
    (idleWith [.writeReg 8 1#64]).moves = .writeReg 8 1#64 :: [] ∧
    (idleWith [.readIbuf 131072]).cfg.ibufSize ≤ 131072 ∧
    (idleWith [.readIbuf 131072]).moves = .readIbuf 131072 :: [] ∧
    (idleWith [.writeIbuf 131072 1#8]).moves = .writeIbuf 131072 1#8 :: [] ∧
    (idleWith [.readObuf 131072]).cfg.obufSize ≤ 131072 ∧
    (idleWith [.readObuf 131072]).moves = .readObuf 131072 :: [] ∧
    (idleWith [.writeObuf 131072 1#8]).moves = .writeObuf 131072 1#8 :: [] := by decide

/-- ResetEventGivesTheResetTable: in BUSY. -/
theorem witness_reset_event :
    State.busy { load 5#32 hello with moves := [.assertReset] } = true ∧
    State.moves { load 5#32 hello with moves := [.assertReset] } = .assertReset :: [] := by decide

/-- MaskxorResult: ILEN = IBUF_SIZE = OBUF_SIZE, and ILEN = 0. -/
theorem witness_maskxor :
    (∃ s : State, s.inLen = 256 ∧ s.inLen ≤ s.cfg.ibufSize ∧ s.inLen ≤ s.cfg.obufSize) ∧
    (∃ s : State, s.inLen = 0 ∧ s.inLen ≤ s.cfg.ibufSize ∧ s.inLen ≤ s.cfg.obufSize) :=
  ⟨⟨withIlen (withCfg (load 4#32 []) 256 256 242) 256, by decide⟩, ⟨load 4#32 [], by decide⟩⟩

/-- MaskxorTooLarge: V9, and REFCFG. -/
theorem witness_maskxor_too_large :
    (∃ s : State, s.inLen ≤ s.cfg.ibufSize ∧ s.cfg.obufSize < s.inLen) ∧
    (∃ s : State, s.cfg.ibufSize ≤ s.cfg.obufSize) :=
  ⟨⟨withIlen (withCfg (load 4#32 []) 1024 256 242) 257, by decide⟩, ⟨load 4#32 [], by decide⟩⟩

/-- Sha1Result: ILEN = IBUF_SIZE. -/
theorem witness_sha1 : ∃ s : State, s.inLen = 131072 ∧ s.inLen ≤ s.cfg.ibufSize :=
  ⟨withIlen (load 5#32 []) 131072, by decide⟩

/-- Sha1PaddedMessage: the empty message; and 56 bytes, after whose 0x80 come zeros. -/
theorem witness_sha1_padding :
    8 * ([] : List Byte).length < 2 ^ 64 ∧ 8 * (List.replicate 56 (0x61#8 : Byte)).length < 2 ^ 64 ∧
    (List.replicate 56 (0x61#8 : Byte)).length < 57 ∧
    57 + 8 < (sha1Pad (List.replicate 56 (0x61#8 : Byte))).length := by decide +kernel

/-- Sha1ScheduleOfABlock, Sha1CompressionOfABlock, Sha1WordsAreBigEndian; Sha1RoundAsInTheTable: the ends of its ranges;
Sha1DigestOfAMessage: two blocks, the last byte of the last word. -/
theorem witness_sha1_words :
    (List.replicate 16 (0#32 : Word32)).length = 16 ∧ 4 * 1 + 4 ≤ (List.replicate 8 (0x61#8 : Byte)).length ∧
    0 < 80 ∧ 19 < 80 ∧ 20 < 80 ∧ 39 < 80 ∧ 40 < 80 ∧ 59 < 80 ∧ 60 < 80 ∧ 79 < 80 ∧
    8 * (List.replicate 56 (0x61#8 : Byte)).length < 2 ^ 64 ∧
    1 < ((List.replicate 56 (0x61#8 : Byte)).length + 8) / 64 + 1 ∧ 4 < 5 ∧ 3 < 4 := by decide

/-- Base64Result: 117 bytes fill an OBUF of 156 bytes. -/
theorem witness_base64 :
    ∃ s : State, s.inLen = 117 ∧ s.cfg.Legal ∧ s.inLen ≤ s.cfg.ibufSize ∧ 4 * ((s.inLen + 2) / 3) ≤ s.cfg.obufSize :=
  ⟨withIlen (withCfg (load 6#32 []) 118 156 142) 117, by decide⟩

/-- Base64TooLarge: one byte more; and in REFCFG the last length that fits and the first that does not (V38). -/
theorem witness_base64_too_large :
    (∃ s : State, s.inLen = 118 ∧ s.inLen ≤ s.cfg.ibufSize ∧ s.cfg.obufSize < 4 * ((s.inLen + 2) / 3)) ∧
    (∃ s : State, s.inLen = 98304 ∧ s.inLen ≤ s.cfg.ibufSize ∧ s.cfg = Config.refcfg) ∧
    (∃ s : State, s.inLen = 98305 ∧ s.inLen ≤ s.cfg.ibufSize ∧ s.cfg = Config.refcfg) :=
  ⟨⟨withIlen (withCfg (load 6#32 []) 118 156 142) 118, by decide⟩, ⟨withIlen (load 6#32 []) 98304, by decide⟩,
    ⟨withIlen (load 6#32 []) 98305, by decide⟩⟩

/-- Base64TextDeterminesTheBytes: a whole number of groups; a text. -/
theorem witness_base64_groups :
    ([1#8, 2#8, 3#8] : List Byte).length % 3 = 0 ∧ ([] : List Byte).length % 3 = 0 ∧
    b64Encode [0x66#8] = b64Encode [0x66#8] := by decide

/-- NegotiateResult: the needle at place 0, and at place 1 after a byte that starts none. -/
theorem witness_negotiate :
    (∃ s : State, s.inLen ≤ s.cfg.ibufSize ∧ (s.inBytes.drop 0).take 18 = hsNeedle ∧
      ∀ q, q < 0 → (s.inBytes.drop q).take 18 ≠ hsNeedle) ∧
    (∃ s : State, s.inLen ≤ s.cfg.ibufSize ∧ (s.inBytes.drop 1).take 18 = hsNeedle ∧
      ∀ q, q < 1 → (s.inBytes.drop q).take 18 ≠ hsNeedle) :=
  ⟨⟨load 3#32 request43, by decide⟩, ⟨load 3#32 (0x58#8 :: request43), by decide⟩⟩

/-- NegotiateMissingKey: three bytes hold no needle of 18. -/
theorem witness_negotiate_missing :
    (load 3#32 [1#8, 2#8, 3#8]).inLen ≤ (load 3#32 [1#8, 2#8, 3#8]).cfg.ibufSize ∧
    ∀ p, ((load 3#32 [1#8, 2#8, 3#8]).inBytes.drop p).take 18 ≠ hsNeedle := by
  refine ⟨by decide, fun p h => ?_⟩
  have h3 : (load 3#32 [1#8, 2#8, 3#8]).inBytes.length = 3 := by decide
  have hl := congrArg List.length h
  rw [List.length_take, List.length_drop, h3, show hsNeedle.length = 18 from rfl] at hl
  omega

/-- KeyValueIsDelimited: blanks of both kinds before `a b`, one after it, then CR LF (V47); and all parts empty (V41). -/
theorem witness_key_value :
    (∃ lead v trail rest : List Byte, lead = [0x20#8, 0x09#8] ∧ v = [0x61#8, 0x20#8, 0x62#8] ∧ trail = [0x20#8] ∧
      rest = [0x0D#8, 0x0A#8] ∧
      (∀ b ∈ lead, b = 0x20#8 ∨ b = 0x09#8) ∧ (∀ b ∈ trail, b = 0x20#8 ∨ b = 0x09#8) ∧
      (∀ b ∈ v, b ≠ 0x0D#8 ∧ b ≠ 0x0A#8) ∧
      (∀ b, v.head? = some b ∨ v.getLast? = some b → b ≠ 0x20#8 ∧ b ≠ 0x09#8) ∧
      (∀ b, rest.head? = some b → b = 0x0D#8 ∨ b = 0x0A#8)) ∧
    (∃ v : List Byte, v = [] ∧ (∀ b ∈ v, b = 0x20#8 ∨ b = 0x09#8) ∧ (∀ b ∈ v, b ≠ 0x0D#8 ∧ b ≠ 0x0A#8) ∧
      (∀ b, v.head? = some b ∨ v.getLast? = some b → b ≠ 0x20#8 ∧ b ≠ 0x09#8) ∧
      (∀ b, v.head? = some b → b = 0x0D#8 ∨ b = 0x0A#8)) := by
  refine ⟨⟨_, _, _, _, rfl, rfl, rfl, rfl, by decide, by decide, by decide, ?_, ?_⟩,
    ⟨[], rfl, by simp, by simp, by simp, by simp⟩⟩
  · intro b h
    rcases h with h | h <;> · simp at h; subst h; decide
  · intro b h
    simp at h
    exact .inl h.symm

/-- DecodeResult, HeaderFormatResults: frames of the six formats that fill ILEN exactly, the first as long as MAX_PAYLOAD. -/
theorem witness_frame_fits :
    (∃ s : State, s.cfg.maxPayload = 5 ∧ s.FrameFits s.specMasked s.specHdrw s.specPlen ∧ s.FrameFits false 2 5) ∧
    (∃ s : State, s.FrameFits s.specMasked s.specHdrw s.specPlen ∧ s.FrameFits true 2 5) ∧
    (∃ s : State, s.FrameFits s.specMasked s.specHdrw s.specPlen ∧ s.FrameFits false 4 s.specLen16) ∧
    (∃ s : State, s.FrameFits s.specMasked s.specHdrw s.specPlen ∧ s.FrameFits true 4 s.specLen16) ∧
    (∃ s : State, s.FrameFits s.specMasked s.specHdrw s.specPlen ∧ s.FrameFits false 10 s.specLen64) ∧
    (∃ s : State, s.FrameFits s.specMasked s.specHdrw s.specPlen ∧ s.FrameFits true 10 s.specLen64) ∧
    (5#7 : BitVec 7).toNat ≤ 125 ∧ (5#7 : BitVec 7).toNat = 5 := by
  simp only [State.FrameFits]
  exact ⟨⟨withCfg (load 1#32 ([0x81#8, 0x05#8] ++ hello)) 7 156 5, by decide⟩,
    ⟨load 1#32 ([0x81#8, 0x85#8] ++ wireKey ++ helloMasked), by decide⟩,
    ⟨load 1#32 ([0x81#8, 0x7e#8, 0#8, 5#8] ++ hello), by decide⟩,
    ⟨load 1#32 ([0x81#8, 0xfe#8, 0#8, 0#8] ++ wireKey), by decide⟩,
    ⟨load 1#32 ([0x81#8, 0x7f#8] ++ List.replicate 7 0#8 ++ [5#8] ++ hello), by decide⟩,
    ⟨load 1#32 ([0x81#8, 0xff#8] ++ List.replicate 8 0#8 ++ wireKey), by decide⟩, by decide⟩

/-- DecodeErrors: for each clause a frame at its boundary (V69, V72, V121, V66, V64 and, masked, V89). -/
theorem witness_decode_errors :
    (∃ s : State, s.inLen ≤ s.cfg.ibufSize ∧ s.inLen < 2) ∧
    (∃ s : State, s.inLen ≤ s.cfg.ibufSize ∧ 2 ≤ s.inLen ∧ s.inLen < s.specHdrw) ∧
    (∃ s : State, s.inLen ≤ s.cfg.ibufSize ∧ 2 ≤ s.inLen ∧ s.specHdrw ≤ s.inLen ∧ s.cfg.maxPayload < s.specPlen) ∧
    (∃ s : State, s.inLen ≤ s.cfg.ibufSize ∧ 2 ≤ s.inLen ∧ s.specHdrw ≤ s.inLen ∧ s.specPlen ≤ s.cfg.maxPayload ∧
      s.specMasked = true ∧ s.inLen < s.specHdrw + 4) ∧
    (∃ s : State, s.inLen ≤ s.cfg.ibufSize ∧ 2 ≤ s.inLen ∧ s.specHdrw + specKeyw s.specMasked ≤ s.inLen ∧
      s.specPlen ≤ s.cfg.maxPayload ∧ s.inLen < s.specHdrw + specKeyw s.specMasked + s.specPlen) ∧
    (∃ s : State, s.specMasked = true ∧ s.inLen ≤ s.cfg.ibufSize ∧ 2 ≤ s.inLen ∧
      s.specHdrw + specKeyw s.specMasked ≤ s.inLen ∧ s.specPlen ≤ s.cfg.maxPayload ∧
      s.inLen < s.specHdrw + specKeyw s.specMasked + s.specPlen) :=
  ⟨⟨load 1#32 [0x81#8], by decide⟩, ⟨load 1#32 (0x81#8 :: 0x7f#8 :: List.replicate 7 0#8), by decide⟩,
    ⟨withCfg (load 1#32 [0x81#8, 0x65#8]) 1024 256 100, by decide⟩,
    ⟨load 1#32 [0x81#8, 0x85#8, 0x11#8, 0x22#8, 0x33#8], by decide⟩, ⟨load 1#32 [0x81#8, 0x05#8], by decide⟩,
    ⟨load 1#32 ([0x81#8, 0x85#8] ++ wireKey ++ helloMasked.take 4), by decide⟩⟩

/-- HeaderFormatErrors: each clause at its boundary for a header of 10 bytes; the 2-byte headers have no second clause;
and ILEN = IBUF_SIZE + 1. -/
theorem witness_header_errors :
    (125#7 : BitVec 7).toNat ≤ 125 ∧
    (∃ s : State, s.inLen ≤ s.cfg.ibufSize ∧ s.inLen < 2) ∧
    (∃ s : State, s.inLen ≤ s.cfg.ibufSize ∧ 2 ≤ s.inLen ∧ s.inLen < 10) ∧
    (∃ s : State, s.inLen ≤ s.cfg.ibufSize ∧ 2 ≤ s.inLen ∧ 10 ≤ s.inLen ∧ s.cfg.maxPayload < s.specLen64) ∧
    (∃ s : State, s.inLen ≤ s.cfg.ibufSize ∧ 2 ≤ s.inLen ∧ 10 ≤ s.inLen ∧ s.specLen64 ≤ s.cfg.maxPayload ∧
      s.inLen < 10 + 4) ∧
    (∃ s : State, s.inLen ≤ s.cfg.ibufSize ∧ 2 ≤ s.inLen ∧ 10 + specKeyw true ≤ s.inLen ∧
      s.specLen64 ≤ s.cfg.maxPayload ∧ s.inLen < 10 + specKeyw true + s.specLen64) ∧
    (∃ s : State, s.cfg.ibufSize < s.inLen ∧ s.inLen = s.cfg.ibufSize + 1) :=
  ⟨by decide, ⟨load 1#32 [0x81#8], by decide⟩, ⟨load 1#32 (0x81#8 :: 0xff#8 :: List.replicate 7 0#8), by decide⟩,
    ⟨load 1#32 (0x81#8 :: List.replicate 9 0xff#8), by decide⟩,
    ⟨load 1#32 (0x81#8 :: 0xff#8 :: List.replicate 11 0#8), by decide⟩,
    ⟨load 1#32 ([0x81#8, 0xff#8] ++ List.replicate 7 0#8 ++ [1#8] ++ wireKey), by decide⟩,
    ⟨withIlen (load 1#32 []) 131073, by decide⟩⟩

/-- Two byte strings that agree at `i` read alike there once loaded, whatever the words and lengths. -/
theorem load_ibufByte (w w' : Word32) (bs cs : List Byte) (i : Nat) (h : bs[i]? = cs[i]?) :
    (load w bs).ibufByte i = (load w' cs).ibufByte i := by
  simp [load, State.ibufByte, h]

/-- RsvBitsAreIgnored: V60 with rsv 0 and with rsv 7. -/
theorem witness_rsv :
    { load 1#32 [0xf1#8, 0x00#8] with
        ibuf := (load 1#32 [0x81#8, 0x00#8]).ibuf, ibufDraw := (load 1#32 [0x81#8, 0x00#8]).ibufDraw } =
      load 1#32 [0x81#8, 0x00#8] ∧
    (∀ i, i ≠ 0 → (load 1#32 [0xf1#8, 0x00#8]).ibufByte i = (load 1#32 [0x81#8, 0x00#8]).ibufByte i) ∧
    ((load 1#32 [0xf1#8, 0x00#8]).ibufByte 0) &&& 0x8F#8 = ((load 1#32 [0x81#8, 0x00#8]).ibufByte 0) &&& 0x8F#8 := by
  refine ⟨by decide, fun i hi => load_ibufByte _ _ _ _ i ?_, by decide⟩
  cases i with
  | zero => exact absurd rfl hi
  | succ i => rfl

/-- TrailingBytesAreIgnored: V87, one frame alone and with another after it. -/
theorem witness_trailing :
    ∃ s u : State, s.inLen = 4 ∧ u.inLen = 7 ∧ s.FrameFits s.specMasked s.specHdrw s.specPlen ∧
      u.inLen ≤ u.cfg.ibufSize ∧ s.specHdrw + specKeyw s.specMasked + s.specPlen ≤ u.inLen ∧
      { u with ibuf := s.ibuf, ibufDraw := s.ibufDraw, ilen := s.ilen } = s ∧
      ∀ i, i < s.specHdrw + specKeyw s.specMasked + s.specPlen → u.ibufByte i = s.ibufByte i := by
  simp only [State.FrameFits]
  exact ⟨load 1#32 [0x81#8, 0x02#8, 0x48#8, 0x69#8],
    load 1#32 [0x81#8, 0x02#8, 0x48#8, 0x69#8, 0x81#8, 0x01#8, 0x58#8], by decide⟩

/-- EncodeResult, EncodeByte0Result, EncodeHeaderIsTheShortestForm: ILEN = IBUF_SIZE = MAX_PAYLOAD; ILEN 0; the ends of the 16-bit
and the 64-bit form. -/
theorem witness_encode :
    (∃ s : State, s.inLen = 126 ∧ s.cfg.Legal ∧ s.inLen ≤ s.cfg.ibufSize ∧ s.inLen ≤ s.cfg.maxPayload ∧
      126 ≤ s.inLen ∧ s.inLen ≤ 65535) ∧
    (∃ s : State, s.inLen = 65535 ∧ s.cfg.Legal ∧ s.inLen ≤ s.cfg.ibufSize ∧ s.inLen ≤ s.cfg.maxPayload ∧
      126 ≤ s.inLen ∧ s.inLen ≤ 65535) ∧
    (∃ s : State, s.inLen = 65536 ∧ s.cfg.Legal ∧ s.inLen ≤ s.cfg.ibufSize ∧ s.inLen ≤ s.cfg.maxPayload ∧
      65535 < s.inLen) ∧
    (∃ s : State, s.inLen = 142 ∧ s.cfg.Legal ∧ s.inLen ≤ s.cfg.ibufSize ∧ s.inLen ≤ s.cfg.maxPayload) ∧
    (∃ s : State, s.inLen = 0 ∧ s.cfg.Legal ∧ s.inLen ≤ s.cfg.ibufSize ∧ s.inLen ≤ s.cfg.maxPayload) :=
  ⟨⟨withIlen (load 2#32 []) 126, by decide⟩, ⟨withIlen (load 2#32 []) 65535, by decide⟩,
    ⟨withIlen (load 2#32 []) 65536, by decide⟩, ⟨withIlen (withCfg (load 0x102#32 []) 142 156 142) 142, by decide⟩,
    ⟨load 2#32 [], by decide⟩⟩

/-- EncodeTooLarge: V104, and ILEN = IBUF_SIZE + 1. -/
theorem witness_encode_too_large :
    (∃ s : State, s.inLen ≤ s.cfg.ibufSize ∧ s.cfg.maxPayload < s.inLen) ∧
    (∃ s : State, s.cfg.ibufSize < s.inLen ∧ s.inLen = s.cfg.ibufSize + 1) :=
  ⟨⟨withIlen (load 2#32 []) 131059, by decide⟩, ⟨withIlen (load 2#32 []) 131073, by decide⟩⟩

/-- The state after `MOVE` from `t`: OBUF copied to IBUF, ILEN taken from OLEN. -/
def moved (t : State) : State := { State.reset with cfg := t.cfg, ilen := t.olen, ibuf := t.obuf }

/-- DecodeOfEncodeIsThePayload: V95, and the empty payload masked with whatever key was drawn (V91). -/
theorem witness_round_trip :
    ∃ t, exec (.encode false) (load 2#32 [0x48#8, 0x69#8]) = .next t ∧ t.cfg.Legal ∧ statusErr t.status = 0#4 ∧
      t.olen.toNat ≤ t.cfg.ibufSize ∧ (moved t).cfg = t.cfg ∧ (moved t).ilen = t.olen ∧
      (∀ k, k < t.olen.toNat → (moved t).ibufByte k = t.obufByte k) := by
  refine ⟨_, rfl, by decide, by decide, by decide, rfl, rfl, ?_⟩
  decide

theorem witness_round_trip_masked :
    ∃ t, exec (.encode true) (load 0x102#32 []) = .next t ∧ t.cfg.Legal ∧ statusErr t.status = 0#4 ∧
      t.olen.toNat ≤ t.cfg.ibufSize ∧ (moved t).cfg = t.cfg ∧ (moved t).ilen = t.olen ∧
      (∀ k, k < t.olen.toNat → (moved t).ibufByte k = t.obufByte k) := by
  refine ⟨_, rfl, by decide, by decide, by decide, rfl, rfl, ?_⟩
  intro k hk
  have hk : k < 6 := hk
  interval_cases k <;> rfl

/-- OutcomeDependsOnArgumentsAlone: SHA1 in two states that differ in KEY, STATUS, OBUF, moves and draws; MASKXOR with one KEY;
masked ENCODE with one draw. -/
theorem witness_outcome :
    (∃ s u : State, u.key ≠ s.key ∧ u.status ≠ s.status ∧ u.obuf ≠ s.obuf ∧ u.moves ≠ s.moves ∧ u.cfg = s.cfg ∧
      u.ilen = s.ilen ∧ u.flag = s.flag ∧ (∀ k, k < s.inLen → u.ibufByte k = s.ibufByte k) ∧
      (Instr.sha1 = .maskxor → u.key = s.key) ∧ u.draws ≠ s.draws ∧
      (Instr.sha1 = .encode true ∨ (Instr.sha1 = .encodeByte0 ∧ s.flag = true) →
        Config.rnd u.draws = Config.rnd s.draws)) ∧
    (∃ s u : State, u.moves ≠ s.moves ∧ u.cfg = s.cfg ∧
      u.ilen = s.ilen ∧ u.flag = s.flag ∧ (∀ k, k < s.inLen → u.ibufByte k = s.ibufByte k) ∧
      (Instr.maskxor = .maskxor → u.key = s.key)) ∧
    (∃ s u : State, u.moves ≠ s.moves ∧ s.flag = true ∧ u.cfg = s.cfg ∧
      u.ilen = s.ilen ∧ u.flag = s.flag ∧ (∀ k, k < s.inLen → u.ibufByte k = s.ibufByte k) ∧
      (Instr.encode true = .encode true ∨ (Instr.encode true = .encodeByte0 ∧ s.flag = true) →
        Config.rnd u.draws = Config.rnd s.draws)) :=
  ⟨⟨load 5#32 hello,
      { load 5#32 hello with key := 1#32, status := 3#32, obuf := [(0, 1#8)], moves := [.blockTurn], draws := 9 },
      by decide, by decide, by decide, by decide, rfl, rfl, rfl, by decide, by decide, by decide, by simp⟩,
    ⟨load 4#32 hello, { load 4#32 hello with moves := [.blockTurn] },
      by decide, rfl, rfl, rfl, by decide, fun _ => rfl⟩,
    ⟨load 0x102#32 hello, { load 0x102#32 hello with moves := [.blockTurn] },
      by decide, rfl, rfl, rfl, rfl, by decide, fun _ => rfl⟩⟩

/-- OperationsNeverWriteTheirInput, HeaderRegistersAreKept: a next state; one of an ENCODE that ends in an error. -/
theorem witness_next_states :
    (∃ t, exec .b64enc (load 6#32 [0x66#8]) = .next t) ∧ codecInstr .b64enc = false ∧
    (∃ t, exec (.encode true) (withIlen (load 0x102#32 []) 131059) = .next t ∧ statusErr t.status ≠ 0#4) ∧
    (∃ t, exec .encodeByte0 (withIlen (load 2#32 []) 131059) = .next t ∧ statusErr t.status ≠ 0#4) :=
  ⟨⟨_, rfl⟩, rfl, ⟨_, rfl, by decide⟩, ⟨_, rfl, by decide⟩⟩

/-- WaitingHostSeesCompletion: no STATUS read, and three, the list ending there; and two reads, the turn and a move after it. -/
theorem witness_waiting :
    (load 1#32 []).busy = true ∧ (load 1#32 []).latched = some 1#32 ∧
    (load 1#32 []).moves = List.replicate 0 (.readReg 1) ∧
    State.moves { load 1#32 [] with moves := [.readReg 1, .readReg 1, .readReg 1] } = List.replicate 3 (.readReg 1) ∧
    State.moves { load 1#32 [] with moves := [.readReg 1, .readReg 1, .blockTurn, .readReg 3] } =
      List.replicate 2 (.readReg 1) ++ .blockTurn :: [.readReg 3] := by
  decide

/-- StepKeepsInv, StepKeepsTheParameters: a state in BUSY with the invariant, and its next state. -/
theorem witness_inv_step :
    State.Inv (load 1#32 [0x81#8, 0x00#8]) ∧ ∃ t, step (load 1#32 [0x81#8, 0x00#8]) = .next t :=
  ⟨by decide, _, rfl⟩

end Sys2Proof.Tests
end

section
/-! The obligations of 00_scope: the invariant at reset, the parameters along a step, the completion of every operation. -/

namespace Sys2Proof.Machine

/-- REFCFG meets the constraints of R6. -/
theorem refcfg_legal : Config.refcfg.Legal := by decide

/-- Whatever legal parameters the block has, the table of R40 meets the invariant: all registers are zero, both buffers are empty. -/
theorem State.afterReset_inv {cfg : Config} (hcfg : cfg.Legal) (moves : List Move) (draw : Nat)
    (readData : Option Word64) : (State.afterReset cfg moves draw readData).Inv := by
  -- `StatusOk` reads STATUS alone, which every reset sets to 0, so one concrete reset state decides it.
  have hstatus : State.reset.StatusOk := by decide
  exact ⟨hcfg, hstatus, BitVec.zero_and, statusBusy_zero.symm, .nil, nofun, .nil, nofun, Nat.zero_le _⟩

/-- Settles O51: the reset state is the table of R40 in the reference configuration, whose parameters are legal. -/
theorem invHoldsAtReset : Obligations.InvHoldsAtReset :=
  State.afterReset_inv refcfg_legal [] 0 none

/-- Taking the next move off the list leaves the parameters. -/
@[simp] theorem nextMove_cfg (s : State) : (nextMove s).2.cfg = s.cfg := by
  unfold nextMove
  split <;> rfl

/-- No move changes the parameters (R6): the ends of an operation keep all of its input, a reset keeps them by name, and every
other move updates other fields. -/
theorem takeMove_cfg {m : Move} {s t : State} (h : takeMove m s = .next t) : t.cfg = s.cfg := by
  obtain rfl | ⟨_, _, hend⟩ | rfl | ⟨_, rfl⟩ | ⟨_, _, rfl⟩ | ⟨_, _, rfl⟩ | ⟨_, _, rfl⟩ | ⟨_, _, _, _, rfl⟩ :=
    takeMove_cases m s t h
  · rfl
  · obtain ⟨hcfg, _⟩ := hend.sameInput
    exact hcfg
  all_goals rfl

/-- Settles O53: a step is a move taken off the list, and neither taking it off nor the move changes the parameters. -/
theorem stepKeepsTheParameters : Obligations.StepKeepsTheParameters := by
  intro s t h
  calc t.cfg = (nextMove s).2.cfg := takeMove_cfg h
    _ = s.cfg := nextMove_cfg s

/-- STATUS and OLEN at the end of an operation: with an error its code, MM 0 and OLEN 0 (R216); with success ERR 0 (R215). -/
theorem OpEnd.status_olen {s t : State} (h : OpEnd s t) :
    (∃ e, t.status = statusWord false true false (errorCode e) ∧ t.olen = 0#64) ∨
    (∃ mm, t.status = statusWord false true mm 0#4) := by
  cases h with
  | raised e | raisedDecode e => exact .inl ⟨e, rfl, rfl⟩
  | succeeded | decoded | encoded => exact .inr ⟨_, rfl⟩

/-- No command is latched at the end of an operation (R21 step 3). -/
theorem OpEnd.latched_eq_none {s t : State} (h : OpEnd s t) : t.latched = none := by
  cases h <;> rfl

/-- Settles O49: `exec` answers a next state that is an end of an operation, and each end is a completion with an error or
with success. -/
theorem everyOperationCompletes : Obligations.EveryOperationCompletes := by
  intro i s
  obtain ⟨t, hexec, hend⟩ := exec_ends i s
  refine ⟨t, hexec, ?_⟩
  obtain ⟨e, hstatus, holen⟩ | ⟨mm, hstatus⟩ := hend.status_olen
  · simp [State.busy, State.donePin, hstatus, holen, hend.latched_eq_none, errorCode_toNat_le]
  · simp [State.busy, State.donePin, hstatus, hend.latched_eq_none]

end Sys2Proof.Machine
end

section
/-! The obligations of 10_state: what the step does on each move of the host and on the block's turn, the reset table, the invariant along a step, the frame and the arguments of an operation. -/

namespace Sys2Proof.Machine

/-! ### The end of an operation keeps the invariant -/

/-- `StatusOk` on the fields of a STATUS given by them (R26). -/
theorem State.statusOk_iff {t : State} {b d mm : Bool} {err : BitVec 4} (h : t.status = statusWord b d mm err) :
    t.StatusOk ↔ ¬(b = true ∧ d = true) ∧ err.toNat ≤ 6 ∧ (mm = true → d = true ∧ err = 0#4) ∧
      (err ≠ 0#4 → d = true) := by
  simp [State.StatusOk, h, statusWord_reserved]

/-- STATUS at the end of an operation is a value the spec allows, in phase IDLE (R26). -/
theorem OpEnd.statusOk_and_idle {s t : State} (h : OpEnd s t) : t.StatusOk ∧ t.busy = false := by
  obtain ⟨e, hstatus, _⟩ | ⟨mm, hstatus⟩ := h.status_olen
  · exact ⟨(State.statusOk_iff hstatus).2 (by simp [errorCode_toNat_le]), by simp [State.busy, hstatus]⟩
  · exact ⟨(State.statusOk_iff hstatus).2 (by simp), by simp [State.busy, hstatus]⟩

/-- The end of an operation leaves HDR's reserved bits 0 (R30): a codec writes a header word, a DECODE error a masked free value,
and every other end keeps the register. -/
theorem OpEnd.hdr_reserved {s t : State} (h : OpEnd s t) (hs : s.hdr &&& 0xFFFFFF0C#32 = 0#32) :
    t.hdr &&& 0xFFFFFF0C#32 = 0#32 := by
  cases h with
  | raised | succeeded => exact hs
  | raisedDecode e => exact hdrMaskReserved_reserved _
  | decoded | encoded => exact hdrWord_reserved _ _ _

/-- A frame that ENCODE emits is at most 14 bytes longer than its payload (R193, R198). -/
theorem encodedFrame_length_le (b0 : Byte) (mask : Bool) (r : Word32) (p : List Byte) :
    (encodedFrame b0 mask r p).length ≤ p.length + 14 := by
  rw [encodedFrame_length]
  split_ifs <;> omega

/-- With legal parameters, OBUF at the end of an operation is a byte string that fits OBUF, and OLEN is its length without
wrapping (R28, R57). -/
theorem OpEnd.exists_result {s t : State} (h : OpEnd s t) (hcfg : s.cfg.Legal) :
    ∃ r, t.obuf = Memory.ofBytes r ∧ t.olen.toNat = r.length ∧ r.length ≤ s.cfg.obufSize := by
  obtain ⟨-, hibuf, hobuf, hmaxobuf, -⟩ := hcfg
  have toNat_length {r : List Byte} (hr : r.length < 2 ^ 64) : (BitVec.ofNat 64 r.length).toNat = r.length :=
    Nat.mod_eq_of_lt hr
  cases h with
  | raised | raisedDecode => exact ⟨[], rfl, rfl, Nat.zero_le _⟩
  | succeeded r hlen hfit =>
    simp only [b64Length] at hfit
    exact ⟨r, rfl, toNat_length (by omega), by omega⟩
  | decoded em fin masked op hdrw plen hmax hfit =>
    have hpay := s.framePayload_length masked (s.frameKey hdrw) (hdrw + keyWidth masked) plen
    have hin := s.inLen_lt
    exact ⟨_, rfl, toNat_length (by omega), by omega⟩
  | encoded b0 mask r hlen hmax =>
    have hframe := encodedFrame_length_le b0 mask r s.input
    rw [State.input_length] at hframe
    exact ⟨_, rfl, toNat_length (by omega), by omega⟩

/-- The end of an operation keeps the invariant: IBUF and the parameters are the input's, all else the completion's. -/
theorem OpEnd.inv {s t : State} (h : OpEnd s t) (hs : s.Inv) : t.Inv := by
  obtain ⟨hcfg, -, hhdr, -, hwf, hbound, -⟩ := hs
  obtain ⟨ecfg, -, eibuf, -⟩ := h.sameInput
  obtain ⟨hstatus, hidle⟩ := h.statusOk_and_idle
  obtain ⟨r, hobuf, holen, hfit⟩ := h.exists_result hcfg
  refine ⟨ecfg ▸ hcfg, hstatus, h.hdr_reserved hhdr, by simp [h.latched_eq_none, hidle], eibuf ▸ hwf, ?_, ?_, ?_, ?_⟩
  · rwa [eibuf, ecfg]
  · rw [hobuf]; exact Memory.wf_ofBytes r
  · rw [hobuf, holen]; exact Memory.mem_ofBytes r
  · rwa [holen, ecfg]

/-! ### Every step keeps the invariant -/

/-- Issue keeps the invariant: STATUS is BUSY alone, and the word is latched (R20, R21 step 2). -/
theorem State.issue_inv {s : State} (hs : s.Inv) (w : Word32) : (s.issue w).Inv := by
  obtain ⟨hcfg, -, hhdr, -, hbuffers⟩ := hs
  exact ⟨hcfg, (State.statusOk_iff (s.issue_status w)).2 (by simp), hhdr, by simp [State.busy], hbuffers⟩

/-- A byte of IBUF written below IBUF_SIZE keeps the invariant (R34). -/
theorem State.writeIbuf_inv {s : State} (hs : s.Inv) {i : Nat} (hi : i < s.cfg.ibufSize) (b : Byte) :
    State.Inv { s with ibuf := s.ibuf.write i b } := by
  obtain ⟨hcfg, hstatus, hhdr, hlatched, hwf, hbound, hobuf⟩ := hs
  refine ⟨hcfg, hstatus, hhdr, hlatched, Memory.wf_write _ _ _ hwf, fun c hc => ?_, hobuf⟩
  obtain rfl | hc := Memory.mem_write _ _ _ _ hc
  · exact hi
  · exact hbound c hc

/-- Every move keeps the invariant. -/
theorem takeMove_inv {m : Move} {s t : State} (hs : s.Inv) (h : takeMove m s = .next t) : t.Inv := by
  obtain rfl | ⟨-, -, hend⟩ | rfl | ⟨v, rfl⟩ | ⟨-, w, rfl⟩ | ⟨-, v, rfl⟩ | ⟨-, v, rfl⟩ | ⟨-, i, b, hi, rfl⟩ :=
    takeMove_cases m s t h
  · exact hs
  · exact hend.inv hs
  · obtain ⟨hcfg, -⟩ := hs
    exact State.afterReset_inv hcfg _ _ _
  · exact hs
  · exact State.issue_inv hs w
  -- ILEN and KEY do not occur in the invariant.
  · exact hs
  · exact hs
  · exact State.writeIbuf_inv hs hi b

/-- Taking the next move off the list keeps the invariant, in which the moves do not occur. -/
theorem nextMove_inv {s : State} (hs : s.Inv) : (nextMove s).2.Inv := by
  unfold nextMove
  split <;> exact hs

/-- Settles O52: a step takes the next move off the list and makes it, and both keep the invariant. -/
theorem stepKeepsInv : Obligations.StepKeepsInv :=
  fun _ _ hs h => takeMove_inv (nextMove_inv hs) h

/-! ### Two states with the same arguments -/

/-- `u` has the arguments of an operation that `s` has: the parameters, ILEN, FLAG and IBUF below ILEN (R22, R56). -/
structure State.SameArgs (s u : State) : Prop where
  cfg : u.cfg = s.cfg
  ilen : u.ilen = s.ilen
  flag : u.flag = s.flag
  byte : ∀ k, k < s.inLen → u.ibufByte k = s.ibufByte k

/-- `v` has the outcome of an operation that `t` has: STATUS, OLEN, OBUF below OLEN and, after a success of a codec operation,
HDR, PAYLEN, FRAMELEN and the key of a masked frame (R22, R33). -/
def State.SameOutcome (codec : Bool) (t v : State) : Prop :=
  v.status = t.status ∧ v.olen = t.olen ∧ (∀ k, k < t.olen.toNat → v.obufByte k = t.obufByte k) ∧
    (codec = true → statusErr t.status = 0#4 →
      v.hdr = t.hdr ∧ v.paylen = t.paylen ∧ v.framelen = t.framelen ∧
        (hdrRegMasked t.hdr = true → v.key = t.key))

theorem State.sameOutcome_raise (codec : Bool) (s u : State) (e : WsError) :
    State.SameOutcome codec (s.raise e) (u.raise e) :=
  ⟨rfl, rfl, by simp, by simp [errorCode_ne_zero]⟩

theorem State.sameOutcome_raiseDecode (codec : Bool) (s u : State) (e : WsError) :
    State.SameOutcome codec (s.raiseDecode e) (u.raiseDecode e) :=
  ⟨rfl, rfl, by simp, by simp [errorCode_ne_zero]⟩

/-- Below its length OBUF is the byte string placed in it, whatever fills the rest (R33). -/
theorem State.obufByte_eq_of_obuf {t v : State} {r : List Byte} (ht : t.obuf = Memory.ofBytes r)
    (hv : v.obuf = Memory.ofBytes r) {k : Nat} (hk : k < (BitVec.ofNat 64 r.length).toNat) :
    v.obufByte k = t.obufByte k := by
  have hlt : k < r.length := lt_of_lt_of_le hk (BitVec.toNat_ofNat _ _ ▸ Nat.mod_le _ _)
  have hr : r[k]? = some r[k] := List.getElem?_eq_getElem hlt
  rw [t.obufByte_of_obuf r ht k _ hr, v.obufByte_of_obuf r hv k _ hr]

theorem State.sameOutcome_succeed (s u : State) (mm : Bool) (r : List Byte) :
    State.SameOutcome false (s.succeed mm r) (u.succeed mm r) :=
  ⟨rfl, rfl, fun _ hk => State.obufByte_eq_of_obuf rfl rfl hk, nofun⟩

namespace State.SameArgs

variable {s u : State} (h : s.SameArgs u)
include h

theorem inLen : u.inLen = s.inLen := congrArg BitVec.toNat h.ilen

theorem ibufSlice {a n : Nat} (hn : a + n ≤ s.inLen) : u.ibufSlice a n = s.ibufSlice a n :=
  State.ibufSlice_congr s u a n fun i _ hi => h.byte i (by omega)

theorem ibufNat {a n : Nat} (hn : a + n ≤ s.inLen) : u.ibufNat a n = s.ibufNat a n :=
  congrArg bytesToNat (h.ibufSlice hn)

theorem input : u.input = s.input := by
  rw [State.input, h.inLen]
  exact h.ibufSlice (by omega)

/-- The check before every other (R86) reads ILEN and IBUF_SIZE alone. -/
theorem checkLength {codec : Bool} {t v : State} (htv : State.SameOutcome codec t v) :
    State.SameOutcome codec (s.checkLength t) (u.checkLength v) := by
  unfold State.checkLength
  rw [h.cfg, h.inLen]
  split
  · exact State.sameOutcome_raise ..
  · exact htv

/-- A DECODE whose checks pass reads key and payload below ILEN (R168, R169). -/
theorem decodeResult (codec em fin masked : Bool) (op : BitVec 4) {hdrw plen : Nat}
    (hfit : hdrw + keyWidth masked + plen ≤ s.inLen) :
    State.SameOutcome codec (s.decodeResult em fin masked op hdrw plen)
      (u.decodeResult em fin masked op hdrw plen) := by
  have hkey (hm : masked = true) : u.frameKey hdrw = s.frameKey hdrw := by
    subst hm
    exact congrArg (BitVec.ofNat 32) (h.ibufNat (by simp only [keyWidth, if_true] at hfit; omega))
  have hpay : u.framePayload masked (u.frameKey hdrw) (hdrw + keyWidth masked) plen =
      s.framePayload masked (s.frameKey hdrw) (hdrw + keyWidth masked) plen := by
    cases masked with
    | false => exact h.ibufSlice hfit
    | true => exact congrArg₂ maskBytes (hkey rfl) (h.ibufSlice hfit)
  refine ⟨rfl, by simp, fun k hk => State.obufByte_eq_of_obuf rfl (congrArg Memory.ofBytes hpay) hk,
    fun _ _ => ⟨rfl, rfl, rfl, fun hm => ?_⟩⟩
  replace hm : masked = true := by simpa using hm
  simp [hm, hkey hm]

/-- DECODE's checks and results on a frame of one header: the length field counts only where it lies below ILEN (R161, R164 to
R167). -/
theorem decodeFrame (codec em fin masked : Bool) (op : BitVec 4) {hdrw plen plen' : Nat}
    (hplen : hdrw ≤ s.inLen → plen' = plen) :
    State.SameOutcome codec (s.decodeFrame em fin masked op hdrw plen)
      (u.decodeFrame em fin masked op hdrw plen') := by
  refine h.checkLength ?_
  rw [h.cfg, h.inLen]
  by_cases h2 : s.inLen < 2
  · simp only [if_pos h2]
    exact State.sameOutcome_raiseDecode ..
  by_cases hhdrw : s.inLen < hdrw
  · simp only [if_neg h2, if_pos hhdrw]
    exact State.sameOutcome_raiseDecode ..
  obtain rfl := hplen (by omega)
  simp only [if_neg h2, if_neg hhdrw]
  split_ifs
  · exact State.sameOutcome_raiseDecode ..
  · exact State.sameOutcome_raiseDecode ..
  · exact State.sameOutcome_raiseDecode ..
  · exact h.decodeResult codec em fin masked op (by omega)

/-- With ILEN below 2 there is no header, and DECODE's end does not depend on what stands at IBUF[0] and IBUF[1] (R161). -/
theorem decodeFrame_short (hshort : s.inLen < 2) (codec em fin fin' masked masked' : Bool) (op op' : BitVec 4)
    (hdrw hdrw' plen plen' : Nat) :
    State.SameOutcome codec (s.decodeFrame em fin masked op hdrw plen)
      (u.decodeFrame em fin' masked' op' hdrw' plen') := by
  refine h.checkLength ?_
  rw [if_pos hshort, if_pos (h.inLen ▸ hshort)]
  exact State.sameOutcome_raiseDecode ..

/-- The length that `len7` selects is read below the header width that it selects (R73, R74). -/
theorem payloadLength (len7 : BitVec 7) (hhdrw : headerWidth len7 ≤ s.inLen) :
    u.payloadLength len7 = s.payloadLength len7 := by
  unfold State.payloadLength
  unfold headerWidth at hhdrw
  split_ifs at hhdrw ⊢
  · rfl
  · exact h.ibufNat hhdrw
  · exact h.ibufNat hhdrw

/-- ENCODE's checks and results; the drawn value counts for a masked frame alone (R190 to R198). -/
theorem encodeFrame (codec : Bool) (b0 : Byte) (mask : Bool) {r r' : Word32} (hr : mask = true → r' = r) :
    State.SameOutcome codec (s.encodeFrame b0 mask r) (u.encodeFrame b0 mask r') := by
  have hframe : encodedFrame b0 mask r' u.input = encodedFrame b0 mask r s.input := by
    rw [h.input]
    cases mask with
    | false => rfl
    | true => rw [hr rfl]
  refine h.checkLength ?_
  rw [h.cfg, h.inLen]
  split
  · exact State.sameOutcome_raise ..
  refine ⟨rfl, by simp [hframe], fun k hk => State.obufByte_eq_of_obuf rfl (congrArg Memory.ofBytes hframe) hk,
    fun _ _ => ⟨rfl, by simp [h.inLen], by simp [hframe], fun hm => ?_⟩⟩
  replace hm : mask = true := by simpa using hm
  simp [hm, hr hm]

end State.SameArgs

/-- Every operation on two states with the same arguments, KEY among them for MASKXOR and the draw for a masked ENCODE, has the
same outcome (R22). -/
theorem exec_sameOutcome (i : Instr) {s u : State} (h : s.SameArgs u) (hkey : i = .maskxor → u.key = s.key)
    (hrnd : i = .encode true ∨ (i = .encodeByte0 ∧ s.flag = true) → Config.rnd u.draws = Config.rnd s.draws) :
    ∃ t v, exec i s = .next t ∧ exec i u = .next v ∧ State.SameOutcome (codecInstr i) t v := by
  cases i with
  | decode em =>
    refine ⟨_, _, rfl, rfl, ?_⟩
    by_cases hshort : s.inLen < 2
    · exact h.decodeFrame_short hshort ..
    · rw [h.byte 0 (by omega), h.byte 1 (by omega)]
      exact h.decodeFrame _ _ _ _ _ (h.payloadLength _)
  | encode mask => exact ⟨_, _, rfl, rfl, h.encodeFrame _ _ _ fun hm => hrnd (.inl (hm ▸ rfl))⟩
  | negotiate =>
    refine ⟨_, _, rfl, rfl, h.checkLength ?_⟩
    rw [h.input]
    cases findFirst hsNeedle s.input with
    | none => exact State.sameOutcome_raise ..
    | some p => exact State.sameOutcome_succeed ..
  | maskxor =>
    refine ⟨_, _, rfl, rfl, h.checkLength ?_⟩
    rw [h.cfg, h.inLen, h.input, hkey rfl]
    split
    · exact State.sameOutcome_raise ..
    · exact State.sameOutcome_succeed ..
  | sha1 =>
    refine ⟨_, _, rfl, rfl, h.checkLength ?_⟩
    rw [h.input]
    exact State.sameOutcome_succeed ..
  | b64enc =>
    refine ⟨_, _, rfl, rfl, h.checkLength ?_⟩
    rw [h.cfg, h.inLen, h.input]
    split
    · exact State.sameOutcome_raise ..
    · exact State.sameOutcome_succeed ..
  | reservedOp0 | reservedOp7 | reservedOp8_15 => exact ⟨_, _, rfl, rfl, State.sameOutcome_raise ..⟩
  | f7u | f7m => exact ⟨_, _, rfl, rfl, h.flag ▸ h.decodeFrame _ _ _ _ _ fun _ => rfl⟩
  | f16u | f16m | f64u | f64m => exact ⟨_, _, rfl, rfl, h.flag ▸ h.decodeFrame _ _ _ _ _ fun hhdrw => h.ibufNat hhdrw⟩
  | encodeByte0 =>
    exact ⟨_, _, rfl, rfl, h.flag ▸ h.encodeFrame _ _ _ fun hm => hrnd (.inr ⟨rfl, h.flag ▸ hm⟩)⟩

/-- Settles O46: the hypotheses say that the two states have the same arguments, the conclusion that the outcome is the same. -/
theorem outcomeDependsOnArgumentsAlone : Obligations.OutcomeDependsOnArgumentsAlone :=
  fun i _ _ hcfg hilen hflag hbyte hkey hrnd => exec_sameOutcome i ⟨hcfg, hilen, hflag, hbyte⟩ hkey hrnd

/-! ### What an operation leaves unchanged -/

/-- Settles O47: whatever `exec` answers is an end of an operation, and every end keeps the input. -/
theorem operationsNeverWriteTheirInput : Obligations.OperationsNeverWriteTheirInput := by
  intro i s t h
  obtain ⟨t', h', hend⟩ := exec_ends i s
  obtain rfl : t' = t := by simpa [h'] using h
  exact hend.sameInput

/-- The check before every other keeps the header registers when the rest of the operation does. -/
theorem State.SameHeaderRegs.checkLength {s run : State} (h : s.SameHeaderRegs run) :
    s.SameHeaderRegs (s.checkLength run) := by
  obtain ⟨-, e⟩ | ⟨-, e⟩ := s.checkLength_cases run <;> rw [e]
  · exact s.raise_sameHeaderRegs _
  · exact h

/-- Outside DECODE, ENCODE and the rows that are their parts, every end of an operation keeps the header registers (R33). -/
theorem exec_sameHeaderRegs {i : Instr} (hi : codecInstr i = false) (s : State) :
    ∃ t, exec i s = .next t ∧ s.SameHeaderRegs t := by
  cases i with
  | decode | encode | f16u | f16m | f64u | f64m | f7u | f7m | encodeByte0 => cases hi
  | negotiate =>
    refine ⟨_, rfl, .checkLength ?_⟩
    split
    · exact s.raise_sameHeaderRegs _
    · exact s.succeed_sameHeaderRegs _ _
  | maskxor | b64enc =>
    refine ⟨_, rfl, .checkLength ?_⟩
    split
    · exact s.raise_sameHeaderRegs _
    · exact s.succeed_sameHeaderRegs _ _
  | sha1 => exact ⟨_, rfl, .checkLength (s.succeed_sameHeaderRegs _ _)⟩
  | reservedOp0 | reservedOp7 | reservedOp8_15 => exact ⟨_, rfl, s.raise_sameHeaderRegs _⟩

/-- An ENCODE that ends in an error keeps the header registers (R201). -/
theorem State.encodeFrame_sameHeaderRegs (s : State) (b0 : Byte) (mask : Bool) (r : Word32)
    (herr : statusErr (s.encodeFrame b0 mask r).status ≠ 0#4) : s.SameHeaderRegs (s.encodeFrame b0 mask r) := by
  obtain ⟨e, h⟩ | ⟨-, -, h⟩ := s.encodeFrame_cases b0 mask r <;> rw [h] at herr ⊢
  · exact s.raise_sameHeaderRegs e
  · simp at herr

/-- Settles O48: operations outside the codec keep the header registers always, ENCODE and its byte 0 when they end in an error. -/
theorem headerRegistersAreKept : Obligations.HeaderRegistersAreKept := by
  intro i s t h
  refine ⟨fun hi => ?_, fun m hm herr => ?_⟩
  · obtain ⟨t', h', hregs⟩ := exec_sameHeaderRegs hi s
    obtain rfl : t' = t := by simpa [h'] using h
    exact hregs
  · obtain rfl | rfl := hm <;> cases h
    · exact s.encodeFrame_sameHeaderRegs _ _ _ herr
    · exact s.encodeFrame_sameHeaderRegs _ _ _ herr

/-! ### The block's turn and the reset -/

/-- On the block's turn in BUSY the step completes the latched word, the move taken off the list (R21 step 3). -/
theorem State.TurnWith.step_eq {s : State} {w : Word32} {rest : List Move} (h : s.TurnWith w rest) :
    step s = runCommand w { s with moves := rest } := by
  obtain ⟨hbusy, hlatched, hmoves | ⟨hmoves, rfl⟩⟩ := h
  · rw [step_cons s _ _ hmoves]
    exact blockTurn_busy _ _ hbusy hlatched
  · rw [step_nil s hmoves, ← hmoves]
    exact blockTurn_busy _ _ hbusy hlatched

/-- The completion of a word that decodes is `exec` of the instruction. -/
theorem runCommand_of_decode {w : Word32} {i : Instr} (h : decode (.command w) = .ok i) (s : State) :
    runCommand w s = exec i s := by
  rw [runCommand, h]

/-- Settles O6: the step completes the latched word, which is to run the instruction it decodes to. -/
theorem stepRunsTheDecodedInstruction : Obligations.StepRunsTheDecodedInstruction :=
  fun _ _ _ _ hturn hdecode => hturn.step_eq.trans (runCommand_of_decode hdecode _)

/-- Settles O17: the step on a reset move is the reset event, which sets every register of the table. -/
theorem resetEventGivesTheResetTable : Obligations.ResetEventGivesTheResetTable := by
  intro s rest hmoves
  refine ⟨State.resetEvent { s with moves := rest }, step_cons s _ _ hmoves, ?_⟩
  simp [State.busy, State.donePin]

/-- Settles O18: `State.reset` is the table of R40 field by field, and no read finds a byte in an empty buffer. -/
theorem resetStateIsTheResetTable : Obligations.ResetStateIsTheResetTable :=
  ⟨rfl, rfl, rfl, rfl, rfl, rfl, rfl, rfl, rfl, rfl, fun _ => ⟨rfl, rfl⟩⟩

/-! ### The host's accesses in IDLE -/

/-- In IDLE the step on a move that exists there alone makes the access (R21 step 1). -/
theorem step_of_idleOnly {s : State} {m : Move} {rest : List Move} {access : Host.Outcome State Fault Refusal}
    (hidle : s.busy = false) (hmoves : s.moves = m :: rest)
    (hm : takeMove m { s with moves := rest } = State.idleOnly { s with moves := rest } access) : step s = access := by
  have hidle' : State.busy { s with moves := rest } = false := hidle
  rw [step_cons s m rest hmoves, hm, State.idleOnly, hidle']
  rfl

/-- Settles O14: each access exists in IDLE and its index names a byte. -/
theorem bufferReadsAndObufWritesInIdle : Obligations.BufferReadsAndObufWritesInIdle := by
  intro s i b rest hidle
  have zeroExtend_toNat (x : Byte) : (x.zeroExtend 64).toNat = x.toNat := BitVec.toNat_setWidth_of_le (by decide)
  refine ⟨fun hmoves hi => ⟨_, ?_, zeroExtend_toNat _⟩, fun hmoves hi => ⟨_, ?_, zeroExtend_toNat _⟩,
    fun hmoves hi => ?_⟩
  all_goals exact (step_of_idleOnly hidle hmoves rfl).trans (if_pos hi)

/-- A write of IBUF gives its byte at its index and the earlier byte at every other (R34). -/
theorem State.ibufByte_writeIbuf (s : State) (i j : Nat) (b : Byte) :
    State.ibufByte { s with ibuf := s.ibuf.write i b } j = if j = i then b else s.ibufByte j := by
  split
  · simp [State.ibufByte, *]
  · simp [State.ibufByte, Memory.read_write_other, *]

/-- Settles O13: the step writes the byte into IBUF, where it is read at its index alone. -/
theorem ibufWriteWritesOneByte : Obligations.IbufWriteWritesOneByte := by
  intro s i b rest hidle hmoves hi
  refine ⟨_, (step_of_idleOnly hidle hmoves rfl).trans (if_pos hi), ?_, fun j hj => ?_, rfl⟩
  · exact (State.ibufByte_writeIbuf _ i i b).trans (if_pos rfl)
  · exact (State.ibufByte_writeIbuf _ i j b).trans (if_neg hj)

/-- A read of a register in IDLE returns its value, or is refused where there is none (R24). -/
theorem step_readReg_of_idle {s : State} {i : Nat} {rest : List Move} (hidle : s.busy = false)
    (hmoves : s.moves = .readReg i :: rest) :
    (∀ v, s.register i = some v → step s = .next { s with moves := rest, readData := some v }) ∧
      (s.register i = none → step s = .refused .noSuchRegister) := by
  have hidle' : State.busy { s with moves := rest } = false := hidle
  have hregister : State.register { s with moves := rest } i = s.register i := rfl
  rw [step_cons s _ _ hmoves, takeMove, hostReadReg, if_neg (by simp [hidle']), hregister]
  exact ⟨fun v hv => by rw [hv], fun hnone => by rw [hnone]⟩

/-- A write of a register in IDLE writes the state, or is refused where there is no such register (R24). -/
theorem step_writeReg_of_idle {s : State} {i : Nat} {v : Word64} {rest : List Move} (hidle : s.busy = false)
    (hmoves : s.moves = .writeReg i v :: rest) :
    (∀ t, State.setRegister { s with moves := rest } i v = some t → step s = .next t) ∧
      (State.setRegister { s with moves := rest } i v = none → step s = .refused .noSuchRegister) := by
  rw [step_of_idleOnly hidle hmoves rfl]
  exact ⟨fun t ht => by rw [ht], fun hnone => by rw [hnone]⟩

/-- Settles O10: index 0 is CMD, whose write issues the low 32 bits, here the whole word. -/
theorem cmdWriteIssues : Obligations.CmdWriteIssues := by
  intro s w rest hidle hmoves
  have hw : BitVec.truncate 32 (w.zeroExtend 64) = w := by simp
  have hissue : State.setRegister { s with moves := rest } 0 (w.zeroExtend 64) =
      some (State.issue { s with moves := rest } w) := by rw [State.setRegister, hw]
  exact (step_writeReg_of_idle hidle hmoves).1 _ hissue

/-- Settles O11: each of the eight indices names a register, and a 32-bit one is read zero-extended. -/
theorem registerReadsInIdle : Obligations.RegisterReadsInIdle := by
  intro s i rest hidle hmoves hi
  have zeroExtend_toNat (x : Word32) : (x.zeroExtend 64).toNat = x.toNat := BitVec.toNat_setWidth_of_le (by decide)
  obtain ⟨v, hv⟩ : ∃ v, s.register i = some v := by
    interval_cases i <;> exact ⟨_, rfl⟩
  refine ⟨v, (step_readReg_of_idle hidle hmoves).1 v hv, ?_, ?_, ?_, ?_, ?_, ?_, ?_, ?_⟩
  all_goals
    rintro rfl
    obtain rfl := Option.some.inj hv
  · rfl
  · exact zeroExtend_toNat _
  · rfl
  · rfl
  · exact zeroExtend_toNat _
  · exact zeroExtend_toNat _
  · rfl
  · rfl

/-- Settles O12: the write of each index as `setRegister` gives it. -/
theorem registerWritesInIdle : Obligations.RegisterWritesInIdle := by
  intro s i v rest hidle hmoves
  have hwrite := (step_writeReg_of_idle hidle hmoves).1
  refine ⟨?_, ?_, ?_⟩
  · rintro rfl
    exact hwrite _ rfl
  · rintro rfl
    exact hwrite _ rfl
  · rintro (rfl | rfl | rfl | rfl | rfl) <;> exact hwrite _ rfl

/-- From index 8 on there is no register to read (R24). -/
theorem State.register_eq_none (s : State) {i : Nat} (hi : 8 ≤ i) : s.register i = none := by
  obtain ⟨k, rfl⟩ := Nat.exists_eq_add_of_le' hi
  rfl

/-- From index 8 on there is no register to write (R24). -/
theorem State.setRegister_eq_none (s : State) {i : Nat} (hi : 8 ≤ i) (v : Word64) : s.setRegister i v = none := by
  obtain ⟨k, rfl⟩ := Nat.exists_eq_add_of_le' hi
  rfl

/-- Settles O16: the indices from the first absent one on name no register and no byte. -/
theorem absentRegisterOrByteIsRefused : Obligations.AbsentRegisterOrByteIsRefused := by
  intro s i v b rest hidle
  refine ⟨fun hi => ?_, fun hi => ?_, fun hi => ?_⟩
  · rintro (hmoves | hmoves)
    · exact (step_readReg_of_idle hidle hmoves).2 (s.register_eq_none hi)
    · exact (step_writeReg_of_idle hidle hmoves).2 (State.setRegister_eq_none _ hi v)
  · rintro (hmoves | hmoves) <;> exact (step_of_idleOnly hidle hmoves rfl).trans (if_neg (Nat.not_lt.2 hi))
  · rintro (hmoves | hmoves) <;> exact (step_of_idleOnly hidle hmoves rfl).trans (if_neg (Nat.not_lt.2 hi))

end Sys2Proof.Machine
end

section
/-! The obligations of 30_encoding: decoder and encoder are inverse to each other, the legal command words, the header rows as
parts of a DECODE, the reserved rows, the rsv bits, the result of NEGOTIATE. -/

namespace Sys2Proof.Machine

/-! ### The fields of a command word -/

@[simp] theorem cmdOp_reservedWord (op : BitVec 4) (rest : BitVec 28) : cmdOp (reservedWord op rest) = op :=
  BitVec.extractLsb'_append_eq_right

@[simp] theorem cmdRest_reservedWord (op : BitVec 4) (rest : BitVec 28) : cmdRest (reservedWord op rest) = rest :=
  BitVec.extractLsb'_append_eq_left

/-- OP and the bits above it are the whole word (R83). -/
theorem reservedWord_cmdOp_cmdRest (w : Word32) : reservedWord (cmdOp w) (cmdRest w) = w := by
  refine BitVec.eq_of_getLsbD_eq fun i hi => ?_
  rw [reservedWord, BitVec.getLsbD_append, cmdOp, cmdRest]
  split
  · simp [*]
  · rw [BitVec.getLsbD_extractLsb', show 4 + (i - 4) = i by omega]
    simp only [show i - 4 < 28 by omega, decide_true, Bool.true_and]

/-- The reserved bits are those outside OP and FLAG (R83). -/
theorem reservedMask_getLsbD {i : Nat} (hi : i < 32) : (0xFFFFFEF0#32).getLsbD i = decide (4 ≤ i ∧ i ≠ 8) := by
  revert i; decide

/-- The bits of a command word by field (R83). -/
theorem commandWord_getLsbD (op : BitVec 4) (flag : Bool) (i : Nat) :
    (commandWord op flag).getLsbD i = if i < 4 then op.getLsbD i else decide (i = 8) && flag := by
  rw [commandWord, BitVec.getLsbD_append, BitVec.getLsbD_append, BitVec.getLsbD_append]
  by_cases hop : i < 4
  · simp [hop, show i < 8 by omega, show i < 9 by omega]
  by_cases hflag : i = 8
  · simp [hflag]
  · simp [hop, hflag, BitVec.getLsbD_ofBool]
    omega

/-- A word without reserved bits is OP and FLAG alone (R83). -/
theorem commandWord_cmdOp_cmdFlag {w : Word32} (h : cmdReservedSet w = false) :
    commandWord (cmdOp w) (cmdFlag w) = w := by
  have hmask : w &&& 0xFFFFFEF0#32 = 0#32 := by simpa [cmdReservedSet] using h
  refine BitVec.eq_of_getLsbD_eq fun i hi => ?_
  rw [commandWord_getLsbD]
  by_cases hop : i < 4
  · simp [cmdOp, hop]
  by_cases hflag : i = 8
  · simp [cmdFlag, hflag]
  · have hbit := congrArg (BitVec.getLsbD · i) hmask
    simpa [BitVec.getLsbD_and, reservedMask_getLsbD hi, hop, hflag, show 4 ≤ i by omega] using hbit

/-- OP of a word that decodes as RESERVED_OP8_15 is a 1 and the three low bits (R86). -/
theorem cmdOp_eq_append {w : Word32} (h : 8 ≤ (cmdOp w).toNat) : 1#1 ++ w.extractLsb' 0 3 = cmdOp w := by
  have hlow : w.extractLsb' 0 3 = (cmdOp w).extractLsb' 0 3 := (BitVec.extractLsb'_extractLsb'_of_le (by decide)).symm
  rw [hlow]
  generalize cmdOp w = op at h
  revert op; decide

/-! ### The command words -/

theorem decodeFlagged_eq_ok {w : Word32} {mk : Bool → Instr} {i : Instr} :
    decodeFlagged w mk = .ok i ↔ cmdReservedSet w = false ∧ mk (cmdFlag w) = i := by
  unfold decodeFlagged
  split <;> simp [*]

theorem decodePlain_eq_ok {w : Word32} {i j : Instr} :
    decodePlain w j = .ok i ↔ cmdReservedSet w = false ∧ cmdFlag w = false ∧ j = i := by
  unfold decodePlain
  split_ifs <;> simp [*]


theorem decodeCommand_reservedWord_zero (rest : BitVec 28) :
    decodeCommand (reservedWord 0#4 rest) = .ok (.reservedOp0 rest) := by
  simp [decodeCommand]

theorem decodeCommand_reservedWord_seven (rest : BitVec 28) :
    decodeCommand (reservedWord 7#4 rest) = .ok (.reservedOp7 rest) := by
  simp [decodeCommand]

/-- With OP = 8 to 15 every word is RESERVED_OP8_15 (R86). -/
theorem decodeCommand_of_eight_le {w : Word32} (h : 8 ≤ (cmdOp w).toNat) :
    decodeCommand w = .ok (.reservedOp8_15 (w.extractLsb' 0 3) (cmdRest w)) := by
  obtain ⟨n, hn⟩ := Nat.exists_eq_add_of_le' h
  rw [decodeCommand, hn]
  rfl

theorem decodeCommand_reservedWord_append (low : BitVec 3) (rest : BitVec 28) :
    decodeCommand (reservedWord (1#1 ++ low) rest) = .ok (.reservedOp8_15 low rest) := by
  have hop : 8 ≤ (1#1 ++ low).toNat := by revert low; decide
  have hlow : (reservedWord (1#1 ++ low) rest).extractLsb' 0 3 = low := by
    rw [← BitVec.extractLsb'_extractLsb'_of_le (len' := 4) (by decide)]
    exact (congrArg (BitVec.extractLsb' 0 3) (cmdOp_reservedWord _ _)).trans BitVec.extractLsb'_append_eq_right
  rw [decodeCommand_of_eight_le (by rwa [cmdOp_reservedWord]), hlow, cmdRest_reservedWord]

/-- A command word that decodes is the encoding of the instruction it decodes to. -/
theorem encode_of_decodeCommand {w : Word32} {i : Instr} (h : decodeCommand w = .ok i) :
    encode i = .command w ∧ i.wellFormed = true := by
  have flagged {op : BitVec 4} (hop : (cmdOp w).toNat = op.toNat) (hres : cmdReservedSet w = false) :
      commandWord op (cmdFlag w) = w :=
    BitVec.eq_of_toNat_eq hop ▸ commandWord_cmdOp_cmdFlag hres
  have plain {op : BitVec 4} (hop : (cmdOp w).toNat = op.toNat) (hres : cmdReservedSet w = false)
      (hflag : cmdFlag w = false) : commandWord op false = w := hflag ▸ flagged hop hres
  have reserved {op : BitVec 4} (hop : (cmdOp w).toNat = op.toNat) : reservedWord op (cmdRest w) = w :=
    BitVec.eq_of_toNat_eq hop ▸ reservedWord_cmdOp_cmdRest w
  unfold decodeCommand at h
  split at h
  case h_1 hop | h_8 hop =>
    cases h
    exact ⟨congrArg Code.command (reserved hop), rfl⟩
  case h_2 hop | h_3 hop =>
    obtain ⟨hres, rfl⟩ := decodeFlagged_eq_ok.1 h
    exact ⟨congrArg Code.command (flagged hop hres), rfl⟩
  case h_4 hop | h_5 hop | h_6 hop | h_7 hop =>
    obtain ⟨hres, hflag, rfl⟩ := decodePlain_eq_ok.1 h
    exact ⟨congrArg Code.command (plain hop hres hflag), rfl⟩
  case h_9 =>
    cases h
    have hop : 8 ≤ (cmdOp w).toNat := by grind
    exact ⟨congrArg Code.command (reserved (congrArg BitVec.toNat (cmdOp_eq_append hop).symm)), rfl⟩

/-! ### The header bytes -/

@[simp] theorem hdrFin_headerByte0 (fin : Bool) (rsv : BitVec 3) (opcode : BitVec 4) :
    hdrFin (headerByte0 fin rsv opcode) = fin := by
  revert fin rsv opcode; decide

@[simp] theorem hdrRsv_headerByte0 (fin : Bool) (rsv : BitVec 3) (opcode : BitVec 4) :
    hdrRsv (headerByte0 fin rsv opcode) = rsv := by
  revert fin rsv opcode; decide

@[simp] theorem hdrOpcode_headerByte0 (fin : Bool) (rsv : BitVec 3) (opcode : BitVec 4) :
    hdrOpcode (headerByte0 fin rsv opcode) = opcode := by
  revert fin rsv opcode; decide

@[simp] theorem hdrMasked_headerByte1 (masked : Bool) (len7 : BitVec 7) :
    hdrMasked (headerByte1 masked len7) = masked := by
  revert masked len7; decide

@[simp] theorem hdrLen7_headerByte1 (masked : Bool) (len7 : BitVec 7) :
    hdrLen7 (headerByte1 masked len7) = len7 := by
  revert masked len7; decide

/-- `fin`, `rsv` and `opcode` are the whole byte 0 (R71). -/
theorem headerByte0_fields (b0 : Byte) : headerByte0 (hdrFin b0) (hdrRsv b0) (hdrOpcode b0) = b0 := by
  revert b0; decide

/-- `masked` and `len7` are the whole byte 1 (R72). -/
theorem headerByte1_fields (b1 : Byte) : headerByte1 (hdrMasked b1) (hdrLen7 b1) = b1 := by
  revert b1; decide

/-- `len7` is a length, or selects one of the two extended forms (R73). -/
theorem len7_cases (len7 : BitVec 7) : len7.toNat ≤ 125 ∨ len7 = 126#7 ∨ len7 = 127#7 := by
  revert len7; decide

/-- The row of a header without extended length (R75). -/
theorem decodeHeader_of_len7_le {b1 : Byte} (h : (hdrLen7 b1).toNat ≤ 125) (b0 : Byte) :
    decodeHeader b0 b1 =
      if hdrMasked b1 then .f7m (hdrFin b0) (hdrRsv b0) (hdrOpcode b0) (hdrLen7 b1)
      else .f7u (hdrFin b0) (hdrRsv b0) (hdrOpcode b0) (hdrLen7 b1) := by
  simp [decodeHeader, show (hdrLen7 b1).toNat ≠ 126 by omega, show (hdrLen7 b1).toNat ≠ 127 by omega]

/-- The row of a header with a 16-bit extended length (R75). -/
theorem decodeHeader_of_len7_126 {b1 : Byte} (h : hdrLen7 b1 = 126#7) (b0 : Byte) :
    decodeHeader b0 b1 =
      if hdrMasked b1 then .f16m (hdrFin b0) (hdrRsv b0) (hdrOpcode b0)
      else .f16u (hdrFin b0) (hdrRsv b0) (hdrOpcode b0) := by
  simp [decodeHeader, h]

/-- The row of a header with a 64-bit extended length (R75). -/
theorem decodeHeader_of_len7_127 {b1 : Byte} (h : hdrLen7 b1 = 127#7) (b0 : Byte) :
    decodeHeader b0 b1 =
      if hdrMasked b1 then .f64m (hdrFin b0) (hdrRsv b0) (hdrOpcode b0)
      else .f64u (hdrFin b0) (hdrRsv b0) (hdrOpcode b0) := by
  simp [decodeHeader, h]

/-- A pair of header bytes is the encoding of the row it decodes to. -/
theorem encode_decodeHeader (b0 b1 : Byte) :
    encode (decodeHeader b0 b1) = .header b0 b1 ∧ (decodeHeader b0 b1).wellFormed = true := by
  have hb0 := headerByte0_fields b0
  have hb1 := headerByte1_fields b1
  obtain h | h | h := len7_cases (hdrLen7 b1)
  · rw [decodeHeader_of_len7_le h]
    cases hm : hdrMasked b1 <;> rw [hm] at hb1 <;> simp [encode, Instr.wellFormed, hb0, hb1, h]
  · rw [decodeHeader_of_len7_126 h]
    cases hm : hdrMasked b1 <;> rw [hm, h] at hb1 <;> simp [encode, Instr.wellFormed, hb0, hb1]
  · rw [decodeHeader_of_len7_127 h]
    cases hm : hdrMasked b1 <;> rw [hm, h] at hb1 <;> simp [encode, Instr.wellFormed, hb0, hb1]

/-! ### Decoder and encoder -/

/-- Settles O2: the decoder reads back every field of the code that the encoder wrote for the row. -/
theorem decodeOfEncodeIsTheInstruction : Obligations.DecodeOfEncodeIsTheInstruction := by
  intro i hwf
  cases i with
  | decode flag | encode flag => cases flag <;> rfl
  | negotiate | maskxor | sha1 | b64enc | encodeByte0 => rfl
  | reservedOp0 rest => exact decodeCommand_reservedWord_zero rest
  | reservedOp7 rest => exact decodeCommand_reservedWord_seven rest
  | reservedOp8_15 low rest => exact decodeCommand_reservedWord_append low rest
  | f16u fin rsv opcode | f16m fin rsv opcode => simp [encode, decode, decodeHeader_of_len7_126]
  | f64u fin rsv opcode | f64m fin rsv opcode => simp [encode, decode, decodeHeader_of_len7_127]
  | f7u fin rsv opcode len7 | f7m fin rsv opcode len7 =>
    have hlen7 : len7.toNat ≤ 125 := by simpa [Instr.wellFormed] using hwf
    simp [encode, decode, decodeHeader_of_len7_le, hlen7]

/-- Settles O3: in each of the three places the code read is the encoding of what it decodes to. -/
theorem encodeOfDecodeIsTheCode : Obligations.EncodeOfDecodeIsTheCode := by
  intro c i h
  cases c with
  | command w => exact encode_of_decodeCommand h
  | header b0 b1 =>
    obtain rfl : decodeHeader b0 b1 = i := Except.ok.inj h
    exact encode_decodeHeader b0 b1
  | firstByte b =>
    rw [decode, decodeFirstByte] at h
    split at h <;> cases h
    exact ⟨congrArg Code.firstByte (Eq.symm ‹_›), rfl⟩

/-- Settles O1: the code of an instruction that is no reserved code is its word of the table, and each of the eight words decodes
to its operation. -/
theorem legalCommandWordsAreExactlyEight : Obligations.LegalCommandWordsAreExactlyEight := by
  intro w i
  constructor
  · rintro ⟨hdecode, hlegal⟩
    obtain ⟨hcode, -⟩ := encodeOfDecodeIsTheCode _ _ hdecode
    cases i with
    | decode flag | encode flag => cases flag <;> cases hcode <;> decide
    | negotiate | maskxor | sha1 | b64enc => cases hcode; decide
    | reservedOp0 | reservedOp7 | reservedOp8_15 => cases hlegal
    | f16u | f16m | f64u | f64m | f7u | f7m | encodeByte0 => cases hcode
  · rintro (⟨rfl, rfl⟩ | ⟨rfl, rfl⟩ | ⟨rfl, rfl⟩ | ⟨rfl, rfl⟩ | ⟨rfl, rfl⟩ | ⟨rfl, rfl⟩ | ⟨rfl, rfl⟩ | ⟨rfl, rfl⟩)
    all_goals exact ⟨rfl, rfl⟩

/-- Settles O4: the ten words one by one. -/
theorem specWordsDecodeAsWritten : Obligations.SpecWordsDecodeAsWritten :=
  ⟨rfl, rfl, rfl, rfl, rfl, rfl, rfl, rfl, rfl, rfl⟩

theorem hdrMasked_eq_decide (b1 : Byte) : hdrMasked b1 = decide (128 ≤ b1.toNat) := by
  revert b1; decide

theorem hdrLen7_toNat (b1 : Byte) : (hdrLen7 b1).toNat = b1.toNat % 128 := by
  simp [hdrLen7]

/-- Settles O5: `masked` and `len7` follow from the value of byte 1, and the row from them. -/
theorem headerBytesSelectOneFormat : Obligations.HeaderBytesSelectOneFormat := by
  intro b0 b1
  have hmasked := hdrMasked_eq_decide b1
  have hlen7 := hdrLen7_toNat b1
  refine ⟨rfl, fun h => ?_, fun h => ?_, fun h => ?_, fun h h' => ?_, fun h => ?_, fun h => ?_⟩
  · have hle : (hdrLen7 b1).toNat ≤ 125 := by omega
    have hu : hdrMasked b1 = false := by simp [hmasked]; omega
    simp [decodeHeader_of_len7_le hle, hu, tableRow]
  · obtain rfl : b1 = 126#8 := BitVec.eq_of_toNat_eq h
    rfl
  · obtain rfl : b1 = 127#8 := BitVec.eq_of_toNat_eq h
    rfl
  · have hle : (hdrLen7 b1).toNat ≤ 125 := by omega
    have hm : hdrMasked b1 = true := by simp [hmasked]; omega
    simp [decodeHeader_of_len7_le hle, hm, tableRow]
  · obtain rfl : b1 = 254#8 := BitVec.eq_of_toNat_eq h
    rfl
  · obtain rfl : b1 = 255#8 := BitVec.eq_of_toNat_eq h
    rfl


/-! ### The header rows as parts of a DECODE -/

/-- Every header row is the DECODE in progress on the fields of its two bytes (R75, R160; log 7). -/
theorem exec_decodeHeader (b0 b1 : Byte) (s : State) :
    exec (decodeHeader b0 b1) s =
      .next (s.decodeFrame s.flag (hdrFin b0) (hdrMasked b1) (hdrOpcode b0) (headerWidth (hdrLen7 b1))
        (s.payloadLength (hdrLen7 b1))) := by
  obtain h | h | h := len7_cases (hdrLen7 b1)
  · rw [decodeHeader_of_len7_le h, headerWidth, State.payloadLength, if_pos h, if_pos h]
    cases hdrMasked b1 <;> rfl
  · rw [decodeHeader_of_len7_126 h, h]
    cases hdrMasked b1 <;> rfl
  · rw [decodeHeader_of_len7_127 h, h]
    cases hdrMasked b1 <;> rfl

/-- Settles O9: DECODE parses IBUF[0] and IBUF[1] into the fields that the row of this header carries. -/
theorem decodeRunsItsHeaderFormat : Obligations.DecodeRunsItsHeaderFormat :=
  fun s => (exec_decodeHeader (s.ibufByte 0) (s.ibufByte 1) s).symm

/-- Byte `i` of the payload a DECODE returns (R168, R169). -/
theorem State.framePayload_getElem? (s : State) (masked : Bool) {hdrw plen i : Nat} (hi : i < plen) :
    (s.framePayload masked (s.frameKey hdrw) (hdrw + keyWidth masked) plen)[i]? =
      some (if masked then s.ibufByte (hdrw + 4 + i) ^^^ s.ibufByte (hdrw + i % 4) else s.ibufByte (hdrw + i)) := by
  cases masked with
  | false => exact s.ibufSlice_getElem? _ _ _ hi
  | true =>
    have hkey := s.frameKey_byte hdrw (i % 4) (Nat.mod_lt _ (by decide))
    simp [State.framePayload, keyWidth, maskBytes_getElem?, s.ibufSlice_getElem? _ _ _ hi, hkey]

/-- The key of a frame as the number that its four bytes are (R53, R76). -/
theorem State.frameKey_toNat (s : State) (hdrw : Nat) :
    (s.frameKey hdrw).toNat = (s.ibufByte hdrw).toNat * 2 ^ 24 + (s.ibufByte (hdrw + 1)).toNat * 2 ^ 16 +
      (s.ibufByte (hdrw + 2)).toNat * 2 ^ 8 + (s.ibufByte (hdrw + 3)).toNat := by
  have hlt : s.ibufNat hdrw 4 < 2 ^ 32 := by
    simpa [State.ibufNat] using bytesToNat_lt (s.ibufSlice hdrw 4)
  rw [State.frameKey, BitVec.toNat_ofNat, Nat.mod_eq_of_lt hlt]
  simp [State.ibufNat, State.ibufSlice, bytesToNat_cons, Nat.add_assoc]

/-- The results of a DECODE of a frame that fits, in the spec's own arithmetic (R168 to R171). -/
theorem State.decodeResult_decodedAs (s : State) (em fin masked : Bool) (opcode : BitVec 4) {hdrw plen : Nat}
    (hfit : s.FrameFits masked hdrw plen) :
    s.DecodedAs (s.decodeResult em fin masked opcode hdrw plen) em fin masked opcode.toNat hdrw plen := by
  obtain ⟨-, -, hin⟩ := hfit
  have hlt : hdrw + keyWidth masked + plen < 2 ^ 64 := lt_of_le_of_lt hin s.inLen_lt
  have toNat_ofNat {n : Nat} (hn : n < 2 ^ 64) : (BitVec.ofNat 64 n).toNat = n := Nat.mod_eq_of_lt hn
  refine ⟨⟨?_, rfl, ?_⟩, fun i hi => ?_, ?_, toNat_ofNat (by omega), toNat_ofNat hlt, ?_, ?_, ?_⟩
  · cases masked <;> cases em <;> rfl
  · rw [State.decodeResult_olen, State.framePayload_length, toNat_ofNat (by omega)]
  · exact State.obufByte_of_obuf _ _ rfl i _ (s.framePayload_getElem? masked hi)
  · cases fin <;> cases masked <;> exact hdrWord_toNat ..
  · rintro rfl
    exact s.frameKey_toNat hdrw
  · rintro rfl
    rfl
  · exact ⟨rfl, rfl, rfl, fun _ => rfl, rfl, rfl⟩

/-- A DECODE of a frame that fits completes with its results (R160). -/
theorem State.decodeFrame_decodedAs (s : State) (em fin masked : Bool) (opcode : BitVec 4) {hdrw plen : Nat}
    (h2 : 2 ≤ hdrw) (hfit : s.FrameFits masked hdrw plen) :
    ∃ t, (.next (s.decodeFrame em fin masked opcode hdrw plen) : Host.Outcome State Fault Refusal) = .next t ∧
      s.DecodedAs t em fin masked opcode.toNat hdrw plen := by
  rw [s.decodeFrame_ok em fin masked opcode hdrw plen h2 hfit]
  exact ⟨_, rfl, s.decodeResult_decodedAs em fin masked opcode hfit⟩

/-- Settles O36: each row is a DECODE on the fields it carries, its extended length read from IBUF. -/
theorem headerFormatResults : Obligations.HeaderFormatResults := by
  intro s fin rsv opcode
  rw [← s.ibufNat_len16, ← s.ibufNat_len64]
  exact ⟨fun _ _ => s.decodeFrame_decodedAs _ _ _ _ (by decide), fun _ _ => s.decodeFrame_decodedAs _ _ _ _ (by decide),
    s.decodeFrame_decodedAs _ _ _ _ (by decide), s.decodeFrame_decodedAs _ _ _ _ (by decide),
    s.decodeFrame_decodedAs _ _ _ _ (by decide), s.decodeFrame_decodedAs _ _ _ _ (by decide)⟩

/-- An error of DECODE ends it as R176 says. -/
theorem State.raiseDecode_decodeEndsWith (s : State) (e : WsError) :
    s.DecodeEndsWith (.next (s.raiseDecode e)) (errorCode e).toNat :=
  ⟨_, rfl, s.raiseDecode_failedWith e⟩

/-- The checks of DECODE end it in the order of R177's table. -/
theorem State.decodeFrame_decodeFails (s : State) (em fin masked : Bool) (opcode : BitVec 4) (hdrw plen : Nat) :
    s.DecodeFails (.next (s.decodeFrame em fin masked opcode hdrw plen)) masked hdrw plen := by
  intro hlen
  have hkeyw : keyWidth masked = specKeyw masked := rfl
  rw [State.decodeFrame, State.checkLength_ok _ _ hlen, hkeyw]
  refine ⟨fun h2 => ?_, fun h2 hhdrw => ?_, fun h2 hhdrw hmax => ?_, fun h2 hhdrw hmax hm hkey => ?_,
    fun h2 hkey hmax hplen => ?_⟩
  · rw [if_pos h2]
    exact s.raiseDecode_decodeEndsWith .headerTooShort
  · rw [if_neg (by omega), if_pos hhdrw]
    exact s.raiseDecode_decodeEndsWith .truncatedFrame
  · rw [if_neg (by omega), if_neg (by omega), if_pos hmax]
    exact s.raiseDecode_decodeEndsWith .payloadTooLarge
  · rw [if_neg (by omega), if_neg (by omega), if_neg (by omega), if_pos ⟨hm, hkey⟩]
    exact s.raiseDecode_decodeEndsWith .missingMaskKey
  · have hnokey : ¬(masked = true ∧ s.inLen < hdrw + 4) := by
      rintro ⟨rfl, h⟩
      exact absurd hkey (Nat.not_le.2 h)
    rw [if_neg (by omega), if_neg (by omega), if_neg (by omega), if_neg hnokey, if_pos hplen]
    exact s.raiseDecode_decodeEndsWith .truncatedFrame

/-- Above IBUF_SIZE a DECODE ends with IllegalCommand before any check of its own (R86, R213). -/
theorem State.decodeFrame_of_ibufSize_lt {s : State} (h : s.cfg.ibufSize < s.inLen) (em fin masked : Bool)
    (opcode : BitVec 4) (hdrw plen : Nat) :
    s.decodeFrame em fin masked opcode hdrw plen = s.raise .illegalCommand :=
  if_pos h

/-- IllegalCommand in the terms of Safety (R214). -/
theorem State.raise_illegalCommand (s : State) :
    ∃ t, (.next (s.raise .illegalCommand) : Host.Outcome State Fault Refusal) = .next t ∧ s.FailedWith t 6 ∧
      s.SameHeaderRegs t :=
  ⟨_, rfl, s.raise_failedWith .illegalCommand, s.raise_sameHeaderRegs _⟩

/-- Settles O37: each row is a DECODE on the fields it carries, whose checks are made in one order. -/
theorem headerFormatErrors : Obligations.HeaderFormatErrors := by
  intro s fin rsv opcode
  rw [← s.ibufNat_len16, ← s.ibufNat_len64]
  have fails (masked : Bool) (hdrw plen : Nat) := s.decodeFrame_decodeFails s.flag fin masked opcode hdrw plen
  refine ⟨fun _ _ => ⟨fails false 2 _, fails true 2 _⟩, fails false 4 _, fails true 4 _, fails false 10 _,
    fails true 10 _, fun hlen len7 i hi => ?_⟩
  obtain ⟨em, fin', masked, op, hdrw, plen, hexec⟩ :
      ∃ em fin' masked op hdrw plen, exec i s = .next (s.decodeFrame em fin' masked op hdrw plen) := by
    obtain rfl | rfl | rfl | rfl | rfl | rfl := hi <;> exact ⟨_, _, _, _, _, _, rfl⟩
  rw [hexec, State.decodeFrame_of_ibufSize_lt hlen]
  exact s.raise_illegalCommand

/-- Settles O8: each of the three rows raises IllegalCommand. -/
theorem reservedRowsCompleteWithIllegalCommand : Obligations.ReservedRowsCompleteWithIllegalCommand := by
  rintro s rest low i (rfl | rfl | rfl) <;> exact s.raise_illegalCommand

/-! ### The rsv bits -/

/-- The fields of byte 0 that DECODE reads lie outside rsv (R71, R80). -/
theorem hdrFields_of_and_eq {b b' : Byte} (h : b' &&& 0x8F#8 = b &&& 0x8F#8) :
    hdrFin b' = hdrFin b ∧ hdrOpcode b' = hdrOpcode b := by
  have outside (c : Byte) : hdrFin (c &&& 0x8F#8) = hdrFin c ∧ hdrOpcode (c &&& 0x8F#8) = hdrOpcode c := by
    revert c; decide
  obtain ⟨hfin, hop⟩ := outside b
  obtain ⟨hfin', hop'⟩ := outside b'
  exact ⟨by rw [← hfin', h, hfin], by rw [← hop', h, hop]⟩

/-- `s` with another IBUF in it. -/
def State.withIbuf (s : State) (m : Memory) (draw : Nat) : State := { s with ibuf := m, ibufDraw := draw }

@[simp] theorem State.withIbuf_inLen (s : State) (m : Memory) (draw : Nat) : (s.withIbuf m draw).inLen = s.inLen := rfl

section
variable {u : State} {m : Memory} {draw : Nat} (h : ∀ i, 2 ≤ i → (u.withIbuf m draw).ibufByte i = u.ibufByte i)
include h

theorem State.withIbuf_ibufSlice {a : Nat} (ha : 2 ≤ a) (n : Nat) :
    (u.withIbuf m draw).ibufSlice a n = u.ibufSlice a n :=
  State.ibufSlice_congr _ _ _ _ fun i hi _ => h i (by omega)

/-- The extended length that `len7` selects stands at IBUF[2] (R74). -/
theorem State.withIbuf_payloadLength (len7 : BitVec 7) :
    (u.withIbuf m draw).payloadLength len7 = u.payloadLength len7 := by
  simp [State.payloadLength, State.ibufNat, State.withIbuf_ibufSlice h]

/-- The results of a DECODE are read behind the header (R168, R169). -/
theorem State.withIbuf_decodeResult (em fin masked : Bool) (opcode : BitVec 4) {hdrw : Nat} (h2 : 2 ≤ hdrw) (plen : Nat) :
    (u.withIbuf m draw).decodeResult em fin masked opcode hdrw plen =
      (u.decodeResult em fin masked opcode hdrw plen).withIbuf m draw := by
  have hkey : (u.withIbuf m draw).frameKey hdrw = u.frameKey hdrw := by
    simp [State.frameKey, State.ibufNat, State.withIbuf_ibufSlice h h2]
  have hpay (key : Word32) : (u.withIbuf m draw).framePayload masked key (hdrw + keyWidth masked) plen =
      u.framePayload masked key (hdrw + keyWidth masked) plen := by
    simp [State.framePayload, State.withIbuf_ibufSlice h (show 2 ≤ hdrw + keyWidth masked by omega)]
  simp only [State.decodeResult, hkey, hpay]
  rfl

/-- A DECODE whose header is parsed reads no byte of IBUF below 2. -/
theorem State.withIbuf_decodeFrame (em fin masked : Bool) (opcode : BitVec 4) {hdrw : Nat} (h2 : 2 ≤ hdrw) (plen : Nat) :
    (u.withIbuf m draw).decodeFrame em fin masked opcode hdrw plen =
      (u.decodeFrame em fin masked opcode hdrw plen).withIbuf m draw := by
  have hcfg : (u.withIbuf m draw).cfg = u.cfg := rfl
  simp only [State.decodeFrame, State.checkLength, State.withIbuf_inLen, hcfg, State.withIbuf_decodeResult h _ _ _ _ h2]
  split_ifs <;> rfl

end

/-- Settles O39: the two states are one but for IBUF, whose header fields agree and whose other bytes are the same. -/
theorem rsvBitsAreIgnored : Obligations.RsvBitsAreIgnored := by
  intro em s u hrest hbyte hb0
  refine ⟨_, _, rfl, rfl, ?_⟩
  obtain ⟨hfin, hop⟩ := hdrFields_of_and_eq hb0
  have h2 : 2 ≤ headerWidth (hdrLen7 (s.ibufByte 1)) := s.headerWidth_spec ▸ s.two_le_specHdrw
  generalize hm : s.ibuf = m, hd : s.ibufDraw = draw at hrest
  obtain rfl : u.withIbuf m draw = s := hrest
  have hbehind : ∀ i, 2 ≤ i → (u.withIbuf m draw).ibufByte i = u.ibufByte i :=
    fun i hi => (hbyte i (by omega)).symm
  rw [hfin, hop, hbyte 1 (by decide), State.withIbuf_payloadLength hbehind,
    State.withIbuf_decodeFrame hbehind _ _ _ _ h2]
  rfl

/-! ### NEGOTIATE -/

/-- The search answers the first index at which the needle stands (R111). -/
theorem findFirst_eq_some {needle hay : List Byte} {p : Nat} (hp : p ≤ hay.length) (hat : needle <+: hay.drop p)
    (hbefore : ∀ q, q < p → ¬ needle <+: hay.drop q) : findFirst needle hay = some p := by
  cases hfind : findFirst needle hay with
  | none => exact absurd ⟨hat, hp⟩ (findFirst_none needle hay hfind p)
  | some k =>
    obtain ⟨hk, hkbefore⟩ := findFirst_some needle hay k hfind
    obtain hlt | rfl | hgt := lt_trichotomy k p
    · exact absurd hk (hbefore k hlt)
    · rfl
    · exact absurd hat (hkbefore p hgt)

/-- Where the needle stands in the input, as its 18 bytes there (R111). -/
theorem hsNeedle_prefix_iff (bs : List Byte) : hsNeedle <+: bs ↔ bs.take 18 = hsNeedle :=
  List.prefix_iff_eq_take.trans eq_comm

/-- Settles O29: the search answers the place given, and the response to the value after it is the result. -/
theorem negotiateResult : Obligations.NegotiateResult := by
  refine ⟨by decide, fun s p hlen hat hbefore => ?_⟩
  rw [s.inBytes_eq_input] at *
  have hp : p ≤ s.input.length := by
    have h18 : 18 ≤ s.inLen - p := by simpa using congrArg List.length hat
    rw [State.input_length]
    omega
  have hfind : findFirst hsNeedle s.input = some p :=
    findFirst_eq_some hp ((hsNeedle_prefix_iff _).2 hat) fun q hq h => hbefore q hq ((hsNeedle_prefix_iff _).1 h)
  have hexec : exec .negotiate s =
      .next (s.succeed false (hsResponse (hsAccept (hsValue (s.input.drop (p + 18)))))) := by
    show execNegotiate s = _
    rw [execNegotiate, hfind, State.checkLength_ok _ _ hlen]
  have hresponse := hsResponse_hsAccept_length (hsValue (s.input.drop (p + 18)))
  exact ⟨_, hexec, hresponse ▸ s.succeed_completed _ _ (by omega), s.succeed_outBytes _ _ (by omega),
    s.succeed_sameInput _ _, s.succeed_sameHeaderRegs _ _⟩

end Sys2Proof.Machine
end

section
/-! The obligations of 40_mask_transform: the ends of MASKXOR, its result byte by byte, the transform as its own inverse. -/

namespace Sys2Proof.Machine

/-- The ends of MASKXOR: IllegalCommand, PayloadTooLarge, or the masked input with both checks passed (R86, R103, R104). -/
theorem exec_maskxor_cases (s : State) :
    (s.cfg.ibufSize < s.inLen ∧ exec .maskxor s = .next (s.raise .illegalCommand)) ∨
    (s.inLen ≤ s.cfg.ibufSize ∧ s.cfg.obufSize < s.inLen ∧ exec .maskxor s = .next (s.raise .payloadTooLarge)) ∨
    (s.inLen ≤ s.cfg.ibufSize ∧ s.inLen ≤ s.cfg.obufSize ∧
      exec .maskxor s = .next (s.succeed false (maskBytes s.key s.input))) := by
  rw [show exec .maskxor s = execMaskxor s from rfl, execMaskxor]
  obtain ⟨hlen, e⟩ | ⟨hlen, e⟩ := s.checkLength_cases
    (if s.cfg.obufSize < s.inLen then s.raise .payloadTooLarge else s.succeed false (maskBytes s.key s.input))
  · exact .inl ⟨hlen, congrArg _ e⟩
  · rw [e]
    split
    · exact .inr (.inl ⟨hlen, ‹_›, rfl⟩)
    · exact .inr (.inr ⟨hlen, by omega, rfl⟩)

/-- Byte `i` of the masked input, the key's byte taken from KEY as a number (R53, R100). -/
theorem State.maskBytes_input_getElem? (s : State) (key : Word32) {i : Nat} (hi : i < s.inLen) :
    (maskBytes key s.input)[i]? = some (s.ibufByte i ^^^ BitVec.ofNat 8 (key.toNat / 256 ^ (3 - i % 4))) := by
  rw [maskBytes_getElem?, s.input_getElem? i hi, Option.map_some, keyByte_eq key _ (Nat.mod_lt _ (by decide))]

/-- Settles O19: with both checks passed MASKXOR succeeds with the masked input. -/
theorem maskxorResult : Obligations.MaskxorResult := by
  intro s hibuf hobuf
  obtain ⟨hillegal, -⟩ | ⟨-, htoo, -⟩ | ⟨-, -, hexec⟩ := exec_maskxor_cases s
  · omega
  · omega
  · have hlen : (maskBytes s.key s.input).length = s.inLen := by simp
    exact ⟨_, hexec, hlen ▸ s.succeed_completed false _ (hlen ▸ s.inLen_lt),
      fun i hi => State.obufByte_of_obuf _ _ rfl i _ (s.maskBytes_input_getElem? s.key hi),
      s.succeed_sameInput _ _, s.succeed_sameHeaderRegs _ _⟩

/-- Settles O20: of the three ends only the second has code 5, and it needs OBUF_SIZE < ILEN ≤ IBUF_SIZE. -/
theorem maskxorTooLarge : Obligations.MaskxorTooLarge := by
  intro s
  obtain ⟨hillegal, hexec⟩ | ⟨hibuf, htoo, hexec⟩ | ⟨-, hobuf, hexec⟩ := exec_maskxor_cases s
  · exact ⟨_, hexec, fun hibuf _ => by omega, fun _ => by simp [errorCode]⟩
  · exact ⟨_, hexec, fun _ _ => ⟨s.raise_failedWith .payloadTooLarge, s.raise_sameHeaderRegs _⟩, fun _ => by omega⟩
  · exact ⟨_, hexec, fun _ htoo => by omega, fun _ => by simp⟩

/-- Settles O21: each byte is XORed twice with the same byte of the key. -/
theorem maskIsSelfInverse : Obligations.MaskIsSelfInverse := by
  intro key p
  apply List.ext_getElem?
  intro i
  have hbyte (b k : Byte) : b ^^^ k ^^^ k = b := by rw [BitVec.xor_assoc, BitVec.xor_self, BitVec.xor_zero]
  rw [maskBytes_getElem?, maskBytes_getElem?, Option.map_map]
  cases p[i]? with
  | none => rfl
  | some b => exact congrArg some (hbyte b _)

end Sys2Proof.Machine
end

section
/-! The obligations of 41_handshake: the missing key header, the delimiting of the key value, the accept text, the response. -/

namespace Sys2Proof.Machine

/-! ### The missing key header -/

/-- The search answers nothing where the needle stands nowhere (R111). -/
theorem findFirst_eq_none {needle hay : List Byte} (hnowhere : ∀ q, ¬ needle <+: hay.drop q) :
    findFirst needle hay = none := by
  cases hfind : findFirst needle hay with
  | none => rfl
  | some p => exact absurd (findFirst_some needle hay p hfind).1 (hnowhere p)

/-- Settles O30: the search answers nothing, and NEGOTIATE raises MissingKey. -/
theorem negotiateMissingKey : Obligations.NegotiateMissingKey := by
  intro s hlen hnowhere
  rw [s.inBytes_eq_input] at hnowhere
  have hfind : findFirst hsNeedle s.input = none :=
    findFirst_eq_none fun q h => hnowhere q ((hsNeedle_prefix_iff _).1 h)
  have hexec : exec .negotiate s = .next (s.raise .missingKey) := by
    show execNegotiate s = _
    rw [execNegotiate, hfind, State.checkLength_ok _ _ hlen]
  exact ⟨_, hexec, s.raise_failedWith .missingKey, s.raise_sameHeaderRegs _⟩

/-! ### The key value -/

theorem isBlank_iff {b : Byte} : isBlank b = true ↔ b = 0x20#8 ∨ b = 0x09#8 := by simp [isBlank]

theorem isLineEnd_iff {b : Byte} : isLineEnd b = true ↔ b = 0x0D#8 ∨ b = 0x0A#8 := by simp [isLineEnd]

/-- No byte both is a blank and ends a line (R113). -/
theorem isLineEnd_of_isBlank {b : Byte} (h : isBlank b = true) : isLineEnd b = false := by
  revert b; decide

theorem isBlank_of_isLineEnd {b : Byte} (h : isLineEnd b = true) : isBlank b = false := by
  revert b; decide

/-- No blank is skipped where the first byte is none (R113). -/
theorem dropWhile_isBlank_of_head? {bs : List Byte} (h : ∀ b, bs.head? = some b → isBlank b = false) :
    bs.dropWhile isBlank = bs := by
  cases bs with
  | nil => rfl
  | cons b bs => exact List.dropWhile_cons_of_neg (by simp [h b rfl])

/-- A run of blanks is skipped whole (R113). -/
theorem dropWhile_isBlank_of_forall {bs : List Byte} (h : ∀ b ∈ bs, isBlank b = true) : bs.dropWhile isBlank = [] :=
  List.dropWhile_eq_nil_iff.2 h

/-- Blanks before the value do not belong to it (R113). -/
theorem hsValue_append_of_isBlank {lead : List Byte} (h : ∀ b ∈ lead, isBlank b = true) (bs : List Byte) :
    hsValue (lead ++ bs) = hsValue bs := by
  rw [hsValue, List.dropWhile_append_of_pos h, hsValue]

/-- The first CR or LF, or the end, ends the value (R113). -/
theorem hsValue_append_of_isLineEnd {bs rest : List Byte} (hbs : ∀ b ∈ bs, isLineEnd b = false)
    (hrest : ∀ b, rest.head? = some b → isLineEnd b = true) :
    hsValue (bs ++ rest) = dropBlankEnd (bs.dropWhile isBlank) := by
  have hskip : (bs ++ rest).dropWhile isBlank = bs.dropWhile isBlank ++ rest := by
    rw [List.dropWhile_append, dropWhile_isBlank_of_head? fun b hb => isBlank_of_isLineEnd (hrest b hb)]
    split
    case isTrue hblank => rw [List.isEmpty_iff.1 hblank, List.nil_append]
    case isFalse => rfl
  have hin : ∀ b ∈ bs.dropWhile isBlank, (!isLineEnd b) = true := fun b hb => by
    simp [hbs b ((List.dropWhile_sublist _).subset hb)]
  have hstop : rest.takeWhile (fun b => !isLineEnd b) = [] := by
    cases rest with
    | nil => rfl
    | cons b rest => simp [hrest b rfl]
  rw [hsValue, hskip, List.takeWhile_append_of_pos hin, hstop, List.append_nil]

/-- Blanks behind a value that ends in none are dropped, and nothing of the value (R113). -/
theorem dropBlankEnd_append {v trail : List Byte} (hv : ∀ b, v.getLast? = some b → isBlank b = false)
    (htrail : ∀ b ∈ trail, isBlank b = true) : dropBlankEnd (v ++ trail) = v := by
  have hlast : v.reverse.dropWhile isBlank = v.reverse :=
    dropWhile_isBlank_of_head? fun b hb => hv b (by rwa [List.head?_reverse] at hb)
  rw [dropBlankEnd, List.reverse_append, List.dropWhile_append_of_pos (by simpa using htrail), hlast,
    List.reverse_reverse]

/-- The blanks around a value are dropped, an empty value leaving nothing (R113). -/
theorem dropBlankEnd_dropWhile_append {v trail : List Byte} (hhead : ∀ b, v.head? = some b → isBlank b = false)
    (hlast : ∀ b, v.getLast? = some b → isBlank b = false) (htrail : ∀ b ∈ trail, isBlank b = true) :
    dropBlankEnd ((v ++ trail).dropWhile isBlank) = v := by
  cases v with
  | nil =>
    rw [List.nil_append, dropWhile_isBlank_of_forall htrail]
    rfl
  | cons b v =>
    rw [dropWhile_isBlank_of_head? (by simpa using hhead)]
    exact dropBlankEnd_append hlast htrail

/-- Settles O31: the leading blanks are skipped, the rest begins with a line end, the blanks before it are dropped. -/
theorem keyValueIsDelimited : Obligations.KeyValueIsDelimited := by
  intro lead v trail rest hlead htrail hv hends hrest
  have hlead' : ∀ b ∈ lead, isBlank b = true := fun b hb => isBlank_iff.2 (hlead b hb)
  have htrail' : ∀ b ∈ trail, isBlank b = true := fun b hb => isBlank_iff.2 (htrail b hb)
  have hends' (b : Byte) (hb : v.head? = some b ∨ v.getLast? = some b) : isBlank b = false :=
    Bool.eq_false_iff.2 fun h => not_or.2 (hends b hb) (isBlank_iff.1 h)
  have hline : ∀ b ∈ v ++ trail, isLineEnd b = false := by
    intro b hb
    obtain hb | hb := List.mem_append.1 hb
    · exact Bool.eq_false_iff.2 fun h => not_or.2 (hv b hb) (isLineEnd_iff.1 h)
    · exact isLineEnd_of_isBlank (htrail' b hb)
  calc hsValue (lead ++ (v ++ (trail ++ rest)))
      = hsValue ((v ++ trail) ++ rest) := by rw [hsValue_append_of_isBlank hlead', List.append_assoc]
    _ = dropBlankEnd ((v ++ trail).dropWhile isBlank) :=
      hsValue_append_of_isLineEnd hline fun b hb => isLineEnd_iff.2 (hrest b hb)
    _ = v := dropBlankEnd_dropWhile_append (fun b hb => hends' b (.inl hb)) (fun b hb => hends' b (.inr hb)) htrail'

/-! ### The accept text and the response -/

/-- The base64 text of a byte string whose last group is short ends in `=` (R143). -/
theorem b64Encode_getLast?_of_mod_ne_zero {d : List Byte} (h : d.length % 3 ≠ 0) :
    (b64Encode d).getLast? = some 0x3D#8 := by
  induction d using b64Encode.induct with
  | case1 x0 x1 x2 rest ih =>
    have hrest : rest.length % 3 ≠ 0 := by simpa [Nat.add_assoc] using h
    have hgroup (a b c e : Byte) : a :: b :: c :: e :: b64Encode rest = [a, b, c, e] ++ b64Encode rest := rfl
    rw [b64Encode, hgroup, List.getLast?_append, ih hrest, Option.some_or]
  | case2 x0 x1 => rfl
  | case3 x0 => rfl
  | case4 => exact absurd rfl h

/-- Settles O32: the digest is 20 bytes, six groups of three and one of two. -/
theorem acceptTextIs28Characters : Obligations.AcceptTextIs28Characters := by
  refine ⟨by decide, fun v => ⟨rfl, sha1Hash_length _, ?_, ?_⟩⟩
  · rw [hsAccept, b64Encode_length, sha1Hash_length, b64Length]
  · exact b64Encode_getLast?_of_mod_ne_zero (by simp)

/-- The lines before the accept text as text (R87, R116). -/
theorem asciiBytes_responseHead :
    asciiBytes "HTTP/1.1 101 Switching Protocols\r\nUpgrade: websocket\r\nSec-WebSocket-Version: 13\r\nConnection: Upgrade\r\nSec-WebSocket-Accept: " =
      hsStatusLine ++ (hsUpgradeLine ++ (hsVersionLine ++ (hsConnectionLine ++ hsAcceptName))) := by
  simp [asciiBytes, hsStatusLine, hsUpgradeLine, hsVersionLine, hsConnectionLine, hsAcceptName]

/-- The line end behind the accept text and the blank line as text (R87, R116). -/
theorem asciiBytes_responseTail : asciiBytes "\r\n\r\n" = hsCrLf ++ hsCrLf :=
  rfl

/-- Settles O33: the model's lines are the text's, the accept text between them. -/
theorem responseIsTheLiteralLines : Obligations.ResponseIsTheLiteralLines := by
  intro accept
  rw [asciiBytes_responseHead, asciiBytes_responseTail]
  simp only [hsResponse, List.append_assoc]

end Sys2Proof.Machine
end

section
/-! The obligations of 42_crypto_primitives: SHA-1's padding, words, schedule, rounds, compression and digest; the base64 text; the ends of SHA1 and B64ENC. -/

namespace Sys2Proof.Machine

/-! ### The padded message and its words -/

/-- Settles O23: the length makes the zeros end 8 bytes before the end, and those 8 bytes read back as the number of bits. -/
theorem sha1PaddedMessage : Obligations.Sha1PaddedMessage := by
  intro m hm
  refine ⟨sha1Pad_length m, by simp [sha1Pad], by simp [sha1Pad], fun i hi hi8 => ?_, ?_⟩
  · obtain ⟨j, rfl⟩ := Nat.exists_eq_add_of_lt hi
    have hj : j < (119 - m.length % 64) % 64 := by simp [sha1Pad] at hi8; omega
    rw [sha1Pad, List.getElem?_append_right (by omega), show m.length + j + 1 - m.length = j + 1 by omega,
      List.getElem?_cons_succ, List.getElem?_append_left (by simpa using hj), List.getElem?_replicate_of_lt hj]
  · have hsplit : sha1Pad m = (m ++ 0x80#8 :: List.replicate ((119 - m.length % 64) % 64) 0#8) ++
        natToBytes 8 (8 * m.length) := by simp [sha1Pad]
    rw [hsplit, List.length_append, natToBytes_length, Nat.add_sub_cancel, List.drop_left, bytesToNat_natToBytes]
    exact Nat.mod_eq_of_lt hm

/-- Four bytes put together are their big-endian number (R132). -/
theorem toNat_append_bytes (b0 b1 b2 b3 : Byte) :
    (b0 ++ (b1 ++ (b2 ++ b3)) : Word32).toNat = bytesToNat [b0, b1, b2, b3] := by
  have happend {k n : Nat} (x : BitVec k) (y : BitVec n) : (x ++ y).toNat = x.toNat * 2 ^ n + y.toNat := by
    rw [BitVec.toNat_append, ← Nat.shiftLeft_add_eq_or_of_lt y.isLt, Nat.shiftLeft_eq]
  simp only [happend, bytesToNat_cons, List.length_cons, List.length_nil, bytesToNat_nil]
  omega

/-- Settles O25: each step of the cutting takes four bytes, the first the most significant. -/
theorem sha1WordsAreBigEndian : Obligations.Sha1WordsAreBigEndian := by
  intro m
  induction m using sha1Words.induct with
  | case1 b0 b1 b2 b3 bs ih =>
    intro t ht
    cases t with
    | zero => exact toNat_append_bytes b0 b1 b2 b3
    | succ t => simpa [sha1Words, wordAt, Nat.mul_add] using ih t (by simp at ht; omega)
  | case2 bs h =>
    intro t ht
    match bs, h with
    | [], _ | [_], _ | [_, _], _ | [_, _, _], _ =>
      exact absurd ht (by simp only [List.length_cons, List.length_nil]; omega)
    | a :: b :: c :: d :: e, h => exact absurd rfl (h a b c d e)

/-! ### The schedule -/

theorem wordAt_append_left {w : List Word32} {t : Nat} (ht : t < w.length) (w' : List Word32) :
    wordAt (w ++ w') t = wordAt w t := List.getD_append _ _ _ _ ht

@[simp] theorem wordAt_append_length (w : List Word32) (x : Word32) : wordAt (w ++ [x]) w.length = x := by
  simp [wordAt]

/-- The word that R133 puts at place `t` of the schedule `w`. -/
def scheduleWord (w : List Word32) (t : Nat) : Word32 :=
  (wordAt w (t - 3) ^^^ wordAt w (t - 8) ^^^ wordAt w (t - 14) ^^^ wordAt w (t - 16)).rotateLeft 1

theorem sha1Extend_succ (n : Nat) (w : List Word32) :
    sha1Extend (n + 1) w = sha1Extend n (w ++ [scheduleWord w w.length]) := rfl

/-- Extending a schedule keeps its words. -/
theorem wordAt_sha1Extend_of_lt {n t : Nat} {w : List Word32} (ht : t < w.length) :
    wordAt (sha1Extend n w) t = wordAt w t := by
  induction n generalizing w with
  | zero => rfl
  | succ n ih => rw [sha1Extend_succ, ih (by simp; omega), wordAt_append_left ht]

/-- Place `t` of a schedule depends on the words before it alone (R133). -/
theorem scheduleWord_sha1Extend {n t : Nat} {w : List Word32} (h0 : 0 < t) (ht : t ≤ w.length) :
    scheduleWord (sha1Extend n w) t = scheduleWord w t := by
  have hkeep {k : Nat} (hk : 0 < k) : wordAt (sha1Extend n w) (t - k) = wordAt w (t - k) :=
    wordAt_sha1Extend_of_lt (by omega)
  simp only [scheduleWord, hkeep (k := 3) (by decide), hkeep (k := 8) (by decide), hkeep (k := 14) (by decide),
    hkeep (k := 16) (by decide)]

/-- Each word that the extension adds is the one of R133. -/
theorem wordAt_sha1Extend {n t : Nat} {w : List Word32} (h0 : 0 < w.length) (hw : w.length ≤ t) (ht : t < w.length + n) :
    wordAt (sha1Extend n w) t = scheduleWord (sha1Extend n w) t := by
  induction n generalizing w with
  | zero => omega
  | succ n ih =>
    obtain rfl | hlt := hw.eq_or_lt
    · calc wordAt (sha1Extend (n + 1) w) w.length
          = scheduleWord w w.length := by
            rw [sha1Extend_succ, wordAt_sha1Extend_of_lt (by simp), wordAt_append_length]
        _ = scheduleWord (sha1Extend (n + 1) w) w.length := (scheduleWord_sha1Extend h0 le_rfl).symm
    · rw [sha1Extend_succ]
      exact ih (by simp) (by simpa using hlt) (by simp; omega)

theorem sha1Schedule_length {block : List Word32} (h : block.length = 16) : (sha1Schedule block).length = 80 := by
  rw [sha1Schedule, sha1Extend_length, h]

/-- Settles O24: the extension of the block by 64 words keeps the block and adds the words of R133. -/
theorem sha1ScheduleOfABlock : Obligations.Sha1ScheduleOfABlock := by
  intro block hblock
  exact ⟨sha1Schedule_length hblock, fun t ht => wordAt_sha1Extend_of_lt (by omega),
    fun t h16 ht => wordAt_sha1Extend (by omega) (by omega) (by omega)⟩

/-! ### Rounds, compression and digest -/

/-- `f_t` by the bounds of the table (R134). -/
theorem sha1F_eq_specSha1F (t : Nat) (b c d : Word32) : sha1F t b c d = specSha1F t b c d := by
  simp only [sha1F, specSha1F, Nat.lt_succ_iff]

/-- `K_t` by the bounds of the table (R134). -/
theorem sha1K_toNat (t : Nat) : (sha1K t).toNat = specSha1K t := by
  simp only [sha1K, specSha1K, Nat.lt_succ_iff]
  split_ifs <;> rfl

/-- Settles O54: function and constant are the table's, and the sum of words is the sum of numbers modulo 2^32. -/
theorem sha1RoundAsInTheTable : Obligations.Sha1RoundAsInTheTable := by
  intro t w h _
  refine ⟨?_, rfl, rfl, rfl, rfl⟩
  simp only [sha1Round, BitVec.toNat_add, sha1K_toNat, sha1F_eq_specSha1F, Nat.mod_add_mod]

/-- Settles O55: the rounds are a sequence of states, and the words of the last are added to the hash value. -/
theorem sha1CompressionOfABlock : Obligations.Sha1CompressionOfABlock := by
  intro block h hblock
  obtain ⟨v, hfirst, hround, hlast⟩ := sha1Rounds_states (sha1Schedule block) 0 h
  rw [sha1Schedule_length hblock] at hround hlast
  refine ⟨v, hfirst, fun t ht => ?_, ?_⟩
  · rw [hround t ht, Nat.zero_add]
    exact sha1RoundAsInTheTable t _ _ ht
  · simp [hlast, sha1Compress, Hash5.numbers, BitVec.toNat_add]

/-- The digest bytes are the words H0 to H4 in order, each big-endian (R137). -/
theorem sha1Output_eq_flatMap (h : Hash5) : sha1Output h = h.numbers.flatMap (natToBytes 4) := by
  simp [sha1Output, Hash5.numbers]

/-- Byte `i` of word `k` where words are written one after the other (R137). -/
theorem flatMap_natToBytes_getD {ns : List Nat} {k i : Nat} (hk : k < ns.length) (hi : i < 4) :
    ((ns.flatMap (natToBytes 4)).getD (4 * k + i) 0#8).toNat = ns.getD k 0 / 256 ^ (3 - i) % 256 := by
  induction ns generalizing k with
  | nil => cases hk
  | cons n ns ih =>
    cases k with
    | zero =>
      have hbyte : (natToBytes 4 n ++ ns.flatMap (natToBytes 4))[i]? = some (BitVec.ofNat 8 (n / 256 ^ (3 - i))) := by
        rw [List.getElem?_append_left (by simpa using hi), natToBytes_getElem? _ _ _ hi]
      simp [hbyte]
    | succ k =>
      rw [List.flatMap_cons, List.getD_append_right _ _ _ _ (by simp; omega), natToBytes_length,
        show 4 * (k + 1) + i - 4 = 4 * k + i by omega]
      exact ih (by simpa using hk)

/-- Settles O56: the blocks are a sequence of hash values, whose last one is written out as the digest. -/
theorem sha1DigestOfAMessage : Obligations.Sha1DigestOfAMessage := by
  intro m _
  obtain ⟨v, hfirst, hblock, hlast⟩ := sha1Blocks_states ((m.length + 8) / 64 + 1) (sha1Words (sha1Pad m)) sha1Init
  refine ⟨v, by rw [hfirst]; rfl, fun j hj => ⟨?_, hblock j hj⟩, sha1Hash_length m, fun k i hk hi => ?_⟩
  · have hwords : (sha1Words (sha1Pad m)).length = 16 * ((m.length + 8) / 64 + 1) := by
      rw [sha1Words_length, sha1Pad_length]; omega
    rw [List.length_take, List.length_drop, hwords]; omega
  · rw [sha1Hash, ← hlast, sha1Output_eq_flatMap]
    exact flatMap_natToBytes_getD hk hi

/-- Settles O22: with ILEN in range SHA1 succeeds with the digest of the input. -/
theorem sha1Result : Obligations.Sha1Result := by
  intro s hlen
  have hexec : exec .sha1 s = .next (s.succeed false (sha1Hash s.input)) := by
    show execSha1 s = _
    rw [execSha1, State.checkLength_ok _ _ hlen]
  have hdigest := sha1Hash_length s.input
  rw [s.inBytes_eq_input]
  exact ⟨_, hexec, hdigest ▸ s.succeed_completed _ _ (by omega), s.succeed_outBytes _ _ (by omega),
    s.succeed_sameInput _ _, s.succeed_sameHeaderRegs _ _⟩

/-! ### The base64 text -/

/-- The alphabet as text (R144). -/
theorem b64Char_eq_specB64Char {i : Nat} (hi : i < 64) : b64Char i = specB64Char i := by
  revert i; decide

theorem eq_of_b64Char_eq : ∀ i < 64, ∀ j < 64, b64Char i = b64Char j → i = j := by decide

/-- The pad character is none of the alphabet (R143, R144). -/
theorem b64Char_ne_b64Pad {i : Nat} (hi : i < 64) : b64Char i ≠ b64Pad := by
  revert i; decide

theorem b64Digit_eq_specB64Char (v k : Nat) : b64Digit v k = specB64Char (v / 64 ^ (3 - k) % 64) :=
  b64Char_eq_specB64Char (Nat.mod_lt _ (by decide))

theorem index_eq_of_b64Digit_eq {v w k : Nat} (h : b64Digit v k = b64Digit w k) :
    v / 64 ^ (3 - k) % 64 = w / 64 ^ (3 - k) % 64 :=
  eq_of_b64Char_eq _ (Nat.mod_lt _ (by decide)) _ (Nat.mod_lt _ (by decide)) h

@[simp] theorem b64Digit_ne_b64Pad (v k : Nat) : b64Digit v k ≠ b64Pad :=
  b64Char_ne_b64Pad (Nat.mod_lt _ (by decide))

@[simp] theorem b64Pad_ne_b64Digit (v k : Nat) : b64Pad ≠ b64Digit v k := (b64Digit_ne_b64Pad v k).symm

/-- A full group goes before the text of what follows it (R141, R142). -/
theorem b64Encode_group (x0 x1 x2 : Byte) (rest : List Byte) :
    b64Encode (x0 :: x1 :: x2 :: rest) =
      b64Digit (specB64Number x0 x1 x2) 0 :: b64Digit (specB64Number x0 x1 x2) 1 ::
        b64Digit (specB64Number x0 x1 x2) 2 :: b64Digit (specB64Number x0 x1 x2) 3 :: b64Encode rest := rfl

/-- A last group of two bytes has three characters and one pad (R143). -/
theorem b64Encode_pair (x0 x1 : Byte) :
    b64Encode [x0, x1] =
      [b64Digit (specB64Number x0 x1 0#8) 0, b64Digit (specB64Number x0 x1 0#8) 1,
        b64Digit (specB64Number x0 x1 0#8) 2, b64Pad] := by simp [b64Encode, specB64Number]

/-- A last group of one byte has two characters and two pads (R143). -/
theorem b64Encode_singleton (x0 : Byte) :
    b64Encode [x0] =
      [b64Digit (specB64Number x0 0#8 0#8) 0, b64Digit (specB64Number x0 0#8 0#8) 1, b64Pad, b64Pad] := by
  simp [b64Encode, specB64Number]

@[simp] theorem b64Encode_nil : b64Encode [] = [] := rfl

/-- The text of whole groups goes before the text of what follows them (R141). -/
theorem b64Encode_append {d : List Byte} (hd : d.length % 3 = 0) (e : List Byte) :
    b64Encode (d ++ e) = b64Encode d ++ b64Encode e := by
  induction d using b64Encode.induct with
  | case1 x0 x1 x2 rest ih =>
    have hrest : rest.length % 3 = 0 := by simpa [Nat.add_assoc] using hd
    simp [b64Encode_group, ih hrest]
  | case2 => cases hd
  | case3 => cases hd
  | case4 => rfl

/-! ### The text determines the bytes -/

/-- The first two characters of a group fix its first byte (R142). -/
theorem fst_eq_of_b64Digit_eq {x0 x1 x2 y0 y1 y2 : Byte}
    (h0 : b64Digit (specB64Number x0 x1 x2) 0 = b64Digit (specB64Number y0 y1 y2) 0)
    (h1 : b64Digit (specB64Number x0 x1 x2) 1 = b64Digit (specB64Number y0 y1 y2) 1) : x0 = y0 := by
  have e0 := index_eq_of_b64Digit_eq h0
  have e1 := index_eq_of_b64Digit_eq h1
  norm_num [specB64Number] at e0 e1
  bv_omega

/-- The second and the third character of a group fix its second byte (R142). -/
theorem snd_eq_of_b64Digit_eq {x0 x1 x2 y0 y1 y2 : Byte}
    (h1 : b64Digit (specB64Number x0 x1 x2) 1 = b64Digit (specB64Number y0 y1 y2) 1)
    (h2 : b64Digit (specB64Number x0 x1 x2) 2 = b64Digit (specB64Number y0 y1 y2) 2) : x1 = y1 := by
  have e1 := index_eq_of_b64Digit_eq h1
  have e2 := index_eq_of_b64Digit_eq h2
  norm_num [specB64Number] at e1 e2
  bv_omega

/-- The last two characters of a full group fix its third byte (R142). -/
theorem thd_eq_of_b64Digit_eq {x0 x1 x2 y0 y1 y2 : Byte}
    (h2 : b64Digit (specB64Number x0 x1 x2) 2 = b64Digit (specB64Number y0 y1 y2) 2)
    (h3 : b64Digit (specB64Number x0 x1 x2) 3 = b64Digit (specB64Number y0 y1 y2) 3) : x2 = y2 := by
  have e2 := index_eq_of_b64Digit_eq h2
  have e3 := index_eq_of_b64Digit_eq h3
  norm_num [specB64Number] at e2 e3
  bv_omega

/-- Two byte strings with one base64 text are one: characters give the bytes of each group, pads the kind of the last group
(R141 to R143). -/
theorem b64Encode_injective : Function.Injective b64Encode := by
  intro d e h
  induction d using b64Encode.induct generalizing e with
  | case1 x0 x1 x2 rest ih =>
    match e, h with
    | y0 :: y1 :: y2 :: rest', h =>
      simp only [b64Encode_group, List.cons.injEq] at h
      obtain ⟨h0, h1, h2, h3, h⟩ := h
      rw [fst_eq_of_b64Digit_eq h0 h1, snd_eq_of_b64Digit_eq h1 h2, thd_eq_of_b64Digit_eq h2 h3, ih h]
    | [_, _], h | [_], h => simp [b64Encode_group, b64Encode_pair, b64Encode_singleton] at h
    | [], h => cases h
  | case2 x0 x1 =>
    match e, h with
    | [y0, y1], h =>
      simp only [b64Encode_pair, List.cons.injEq] at h
      obtain ⟨h0, h1, h2, -⟩ := h
      rw [fst_eq_of_b64Digit_eq h0 h1, snd_eq_of_b64Digit_eq h1 h2]
    | _ :: _ :: _ :: _, h | [_], h => simp [b64Encode_group, b64Encode_pair, b64Encode_singleton] at h
    | [], h => cases h
  | case3 x0 =>
    match e, h with
    | [y0], h =>
      simp only [b64Encode_singleton, List.cons.injEq] at h
      obtain ⟨h0, h1, -⟩ := h
      rw [fst_eq_of_b64Digit_eq h0 h1]
    | _ :: _ :: _ :: _, h | [_, _], h => simp [b64Encode_group, b64Encode_pair, b64Encode_singleton] at h
    | [], h => cases h
  | case4 =>
    match e, h with
    | [], _ => rfl
    | _ :: _ :: _ :: _, h | [_, _], h | [_], h => cases h

/-- Settles O28: the length and the groups of the text, the characters of a group by the alphabet, and that no two byte
strings have one text. -/
theorem base64TextDeterminesTheBytes : Obligations.Base64TextDeterminesTheBytes := by
  refine ⟨b64Encode_length, fun _ e hd => b64Encode_append hd e, b64Encode_nil, fun x0 x1 x2 => ?_, fun x0 x1 => ?_,
    fun x0 => ?_, fun _ _ h => b64Encode_injective h⟩
  · simp [b64Encode_group, b64Digit_eq_specB64Char]
  · simp [b64Encode_pair, b64Digit_eq_specB64Char, b64Pad]
  · simp [b64Encode_singleton, b64Digit_eq_specB64Char, b64Pad]

/-! ### The ends of B64ENC -/

/-- The ends of B64ENC: IllegalCommand, PayloadTooLarge, or the text of the input with both checks passed (R86, R140, R146). -/
theorem exec_b64enc_cases (s : State) :
    (s.cfg.ibufSize < s.inLen ∧ exec .b64enc s = .next (s.raise .illegalCommand)) ∨
    (s.inLen ≤ s.cfg.ibufSize ∧ s.cfg.obufSize < b64Length s.inLen ∧
      exec .b64enc s = .next (s.raise .payloadTooLarge)) ∨
    (s.inLen ≤ s.cfg.ibufSize ∧ b64Length s.inLen ≤ s.cfg.obufSize ∧
      exec .b64enc s = .next (s.succeed false (b64Encode s.input))) := by
  rw [show exec .b64enc s = execB64enc s from rfl, execB64enc]
  obtain ⟨hlen, e⟩ | ⟨hlen, e⟩ := s.checkLength_cases
    (if s.cfg.obufSize < b64Length s.inLen then s.raise .payloadTooLarge else s.succeed false (b64Encode s.input))
  · exact .inl ⟨hlen, congrArg _ e⟩
  · rw [e]
    split
    · exact .inr (.inl ⟨hlen, ‹_›, rfl⟩)
    · exact .inr (.inr ⟨hlen, by omega, rfl⟩)

/-- Settles O26: with both checks passed B64ENC succeeds with the text of the input, whose length legal parameters keep
below 2^64. -/
theorem base64Result : Obligations.Base64Result := by
  intro s hlegal hibuf hobuf
  obtain ⟨-, hsize, -⟩ := hlegal
  obtain ⟨hillegal, -⟩ | ⟨-, htoo, -⟩ | ⟨-, -, hexec⟩ := exec_b64enc_cases s
  · omega
  · rw [b64Length] at htoo; omega
  · have hlen : (b64Encode s.input).length = 4 * ((s.inLen + 2) / 3) := by
      rw [b64Encode_length, s.input_length, b64Length]
    rw [s.inBytes_eq_input]
    exact ⟨_, hexec, hlen ▸ s.succeed_completed _ _ (by omega), s.succeed_outBytes _ _ (by omega),
      s.succeed_sameInput _ _, s.succeed_sameHeaderRegs _ _⟩

/-- Settles O27: of the two ends with ILEN in range the one with code 5 is taken when the text does not fit, and in REFCFG it
fits up to 98304 bytes. -/
theorem base64TooLarge : Obligations.Base64TooLarge := by
  intro s hibuf
  have hrefcfg : s.cfg = Config.refcfg → (s.cfg.obufSize < b64Length s.inLen ↔ 98304 < s.inLen) := by
    intro h
    rw [h, b64Length, show Config.refcfg.obufSize = 131072 from rfl]; omega
  obtain ⟨hillegal, -⟩ | ⟨-, htoo, hexec⟩ | ⟨-, hfits, hexec⟩ := exec_b64enc_cases s
  · omega
  · exact ⟨_, hexec, fun _ => ⟨s.raise_failedWith .payloadTooLarge, s.raise_sameHeaderRegs _⟩,
      fun h => by simp [errorCode, ← hrefcfg h, htoo]⟩
  · exact ⟨_, hexec, fun htoo => absurd htoo (by rw [b64Length] at hfits; omega),
      fun h => by simp [← hrefcfg h, hfits]⟩

end Sys2Proof.Machine
end

section
/-! The obligations of 43_decode: DECODE's results and errors, what FLAG and the bytes behind the frame change, and the round trip with ENCODE. -/

namespace Sys2Proof.Machine

/-! ### Results and errors -/

/-- Settles O34: the fields that DECODE parses are those of the spec's arithmetic, and a frame that fits gives its results. -/
theorem decodeResult : Obligations.DecodeResult := by
  intro em s hfit
  rw [execDecode_spec, ← s.hdrOpcode_spec]
  exact s.decodeFrame_decodedAs em _ _ _ s.two_le_specHdrw hfit

/-- Settles O35: the checks are made, in the order of R177's table, on the fields that DECODE parses. -/
theorem decodeErrors : Obligations.DecodeErrors := by
  intro em s
  rw [execDecode_spec]
  exact s.decodeFrame_decodeFails em _ _ _ _ _

/-! ### FLAG -/

/-- No check of DECODE reads FLAG: with both values it ends in one error, or with both in its results (R171, R177). -/
theorem State.decodeFrame_flag_cases (s : State) (fin masked : Bool) (opcode : BitVec 4) (hdrw plen : Nat) :
    (∃ e t, t.status = statusWord false true false (errorCode e) ∧
      ∀ em, s.decodeFrame em fin masked opcode hdrw plen = t) ∨
    (∀ em, s.decodeFrame em fin masked opcode hdrw plen = s.decodeResult em fin masked opcode hdrw plen) := by
  unfold State.decodeFrame State.checkLength
  split_ifs
  · exact .inl ⟨_, _, s.raise_status _, fun _ => rfl⟩
  iterate 5 exact .inl ⟨_, _, s.raiseDecode_status _, fun _ => rfl⟩
  · exact .inr fun _ => rfl

/-- Settles O38: an error is the same state for both values of FLAG, and of the results only MM mentions FLAG. -/
theorem expectMaskedSetsOnlyMm : Obligations.ExpectMaskedSetsOnlyMm := by
  intro s
  refine ⟨_, _, execDecode_spec true s, execDecode_spec false s, ?_⟩
  obtain ⟨e, t, hstatus, ht⟩ | hok :=
    s.decodeFrame_flag_cases s.specFin s.specMasked (hdrOpcode (s.ibufByte 0)) s.specHdrw s.specPlen
  · rw [ht, ht]
    exact ⟨rfl, rfl, by simp [hstatus, errorCode_ne_zero], by simp [hstatus, errorCode_ne_zero]⟩
  · rw [hok, hok]
    exact ⟨rfl, by simp, by simp [maskMismatch], by simp [maskMismatch]⟩

/-! ### Bytes behind the frame -/

section
variable {s u : State} {masked : Bool} {hdrw plen : Nat}
  (h : ∀ i, i < hdrw + keyWidth masked + plen → u.ibufByte i = s.ibufByte i)
include h

/-- The key of a masked frame lies within the frame (R76). -/
theorem State.frameKey_congr (hm : masked = true) : u.frameKey hdrw = s.frameKey hdrw := by
  subst hm
  exact congrArg (fun bs => BitVec.ofNat 32 (bytesToNat bs)) (State.ibufSlice_congr _ _ _ _ fun i _ hi =>
    h i (Nat.lt_add_right plen hi))

/-- So does its payload (R168, R169). -/
theorem State.framePayload_congr :
    u.framePayload masked (u.frameKey hdrw) (hdrw + keyWidth masked) plen =
      s.framePayload masked (s.frameKey hdrw) (hdrw + keyWidth masked) plen := by
  have hslice := State.ibufSlice_congr s u (hdrw + keyWidth masked) plen fun i _ hi => h i hi
  cases masked with
  | false => exact hslice
  | true => exact congrArg₂ maskBytes (State.frameKey_congr h rfl) hslice

/-- The results of a DECODE are those of the frame, from states that differ in IBUF and ILEN alone (R168 to R172). -/
theorem State.decodeResult_congr (hrest : { u with ibuf := s.ibuf, ibufDraw := s.ibufDraw, ilen := s.ilen } = s)
    (em fin : Bool) (opcode : BitVec 4) :
    { u.decodeResult em fin masked opcode hdrw plen with ibuf := s.ibuf, ibufDraw := s.ibufDraw, ilen := s.ilen } =
      s.decodeResult em fin masked opcode hdrw plen := by
  have hkey : (if masked then u.frameKey hdrw else u.key) = if masked then s.frameKey hdrw else s.key := by
    split
    · exact State.frameKey_congr h ‹_›
    · rw [← hrest]
  rw [State.decodeResult, State.decodeResult, State.framePayload_congr h, hkey, ← hrest]
  rfl

end

section
variable {s u : State}

/-- The header fields that `len7` does not place are read from IBUF[0] and IBUF[1] (R71 to R73). -/
theorem State.specHeader_congr (h0 : u.ibufByte 0 = s.ibufByte 0) (h1 : u.ibufByte 1 = s.ibufByte 1) :
    u.specFin = s.specFin ∧ u.specMasked = s.specMasked ∧ u.specLen7 = s.specLen7 ∧ u.specHdrw = s.specHdrw := by
  unfold State.specFin State.specMasked State.specHdrw State.specLen7
  rw [h0, h1]
  exact ⟨rfl, rfl, rfl, rfl⟩

/-- The declared length lies below the header width (R73, R74). -/
theorem State.specPlen_congr (h : ∀ i, i < s.specHdrw → u.ibufByte i = s.ibufByte i) : u.specPlen = s.specPlen := by
  have h2 := s.two_le_specHdrw
  obtain ⟨-, -, hlen7, -⟩ := State.specHeader_congr (h 0 (by omega)) (h 1 (by omega))
  unfold State.specHdrw at h
  unfold State.specPlen
  rw [hlen7]
  split_ifs at h ⊢
  · rfl
  · simp [State.specLen16, h]
  · simp [State.specLen64, h]

end

/-- Settles O40: header, key and payload lie within the frame, and DECODE's results read nothing else of IBUF and not ILEN. -/
theorem trailingBytesAreIgnored : Obligations.TrailingBytesAreIgnored := by
  intro em s u hfit hulen huframe hrest hbyte
  have h2 := s.two_le_specHdrw
  obtain ⟨hfin, hmasked, -, hhdrw⟩ := State.specHeader_congr (hbyte 0 (by omega)) (hbyte 1 (by omega))
  have hplen : u.specPlen = s.specPlen := State.specPlen_congr fun i hi => hbyte i (by omega)
  have hcfg : u.cfg = s.cfg := by rw [← hrest]
  have hufit : u.FrameFits s.specMasked s.specHdrw s.specPlen := by
    obtain ⟨-, hmax, -⟩ := hfit
    exact ⟨hulen, hcfg ▸ hmax, huframe⟩
  refine ⟨_, _, execDecode_spec em s, execDecode_spec em u, ?_⟩
  rw [hfin, hmasked, hhdrw, hplen, hbyte 0 (by omega), s.decodeFrame_ok _ _ _ _ _ _ h2 hfit,
    u.decodeFrame_ok _ _ _ _ _ _ h2 hufit]
  exact State.decodeResult_congr hbyte hrest _ _ _

/-! ### The frame that ENCODE emits -/

theorem headerByte1_toNat (masked : Bool) (len7 : BitVec 7) :
    (headerByte1 masked len7).toNat = 128 * bit masked + len7.toNat := by
  revert masked len7; decide

theorem encLen7_lt (n : Nat) : encLen7 n < 128 := by
  unfold encLen7
  split_ifs <;> omega

/-- The length field is byte 1 and the extended length, big-endian in the rest of the header (R193, R194). -/
theorem lengthField_eq (mask : Bool) (n : Nat) :
    lengthField mask n = headerByte1 mask (BitVec.ofNat 7 (encLen7 n)) :: natToBytes (encHdrw n - 2) n := by
  unfold lengthField encLen7 encHdrw
  split_ifs <;> rfl

/-- What follows the header: the payload, masked behind its key or as it is (R195 to R197). -/
def encodedBody (mask : Bool) (r : Word32) (p : List Byte) : List Byte :=
  if mask then keyBytes r ++ maskBytes r p else p

/-- The frame with its header taken apart. -/
theorem encodedFrame_eq (b0 : Byte) (mask : Bool) (r : Word32) (p : List Byte) :
    encodedFrame b0 mask r p = b0 :: headerByte1 mask (BitVec.ofNat 7 (encLen7 p.length)) ::
      (natToBytes (encHdrw p.length - 2) p.length ++ encodedBody mask r p) := by
  simp [encodedFrame, lengthField_eq, encodedBody]

theorem two_le_encHdrw (n : Nat) : 2 ≤ encHdrw n := by
  unfold encHdrw
  split_ifs <;> omega

/-- Byte `j` of the extended length in the frame (R194). -/
theorem encodedFrame_getElem?_header {p : List Byte} {j : Nat} (hj : j < encHdrw p.length - 2) (b0 : Byte)
    (mask : Bool) (r : Word32) :
    (encodedFrame b0 mask r p)[2 + j]? = some (BitVec.ofNat 8 (p.length / 256 ^ (encHdrw p.length - 3 - j))) := by
  rw [encodedFrame_eq, Nat.add_comm 2 j, List.getElem?_cons_succ, List.getElem?_cons_succ,
    List.getElem?_append_left (by simpa using hj), natToBytes_getElem? _ _ _ hj]
  rfl

/-- Byte `j` behind the header in the frame (R195 to R197). -/
theorem encodedFrame_getElem?_body (p : List Byte) (j : Nat) (b0 : Byte) (mask : Bool) (r : Word32) :
    (encodedFrame b0 mask r p)[encHdrw p.length + j]? = (encodedBody mask r p)[j]? := by
  have h2 := two_le_encHdrw p.length
  rw [encodedFrame_eq, show encHdrw p.length + j = encHdrw p.length - 2 + j + 1 + 1 by omega,
    List.getElem?_cons_succ, List.getElem?_cons_succ, List.getElem?_append_right (by simp)]
  simp

/-- The key stands first in the body of a masked frame (R195). -/
theorem encodedBody_getElem?_key {j : Nat} (hj : j < 4) (r : Word32) (p : List Byte) :
    (encodedBody true r p)[j]? = some (BitVec.ofNat 8 (r.toNat / 256 ^ (3 - j))) := by
  rw [← keyByte_eq r j hj]
  interval_cases j <;> rfl

/-- The payload stands behind the key, each byte XOR its key byte, or alone in the body (R196, R197). -/
theorem encodedBody_getElem?_payload {p : List Byte} {i : Nat} {b : Byte} (hb : p[i]? = some b) (mask : Bool)
    (r : Word32) :
    (encodedBody mask r p)[specKeyw mask + i]? =
      some (if mask then b ^^^ BitVec.ofNat 8 (r.toNat / 256 ^ (3 - i % 4)) else b) := by
  cases mask with
  | false => simpa [encodedBody, specKeyw] using hb
  | true =>
    rw [← keyByte_eq r (i % 4) (Nat.mod_lt _ (by decide))]
    simp [encodedBody, specKeyw, keyBytes, Nat.add_comm 4 i, maskBytes_getElem?, hb]

theorem encodedFrame_length_eq (b0 : Byte) (mask : Bool) (r : Word32) (p : List Byte) :
    (encodedFrame b0 mask r p).length = encHdrw p.length + specKeyw mask + p.length := by
  rw [encodedFrame_length, specKeyw, encHdrw]
  split_ifs <;> omega

/-- What an ENCODE whose checks have passed leaves, in the spec's own arithmetic (R190, R192 to R198). -/
theorem State.encodeResult_encodedAs (s : State) (mask : Bool) (r : Word32) (hlegal : s.cfg.Legal)
    (hlen : s.inLen ≤ s.cfg.ibufSize) : s.EncodedAs (s.encodeResult textByte0 mask r) mask r := by
  obtain ⟨-, hibuf, -⟩ := hlegal
  have hframe := encodedFrame_length_eq textByte0 mask r s.input
  have hshort := encodedFrame_length_le textByte0 mask r s.input
  rw [s.input_length] at hframe hshort
  have toNat_ofNat {n : Nat} (hn : n < 2 ^ 64) : (BitVec.ofNat 64 n).toNat = n := Nat.mod_eq_of_lt hn
  have hlength : (BitVec.ofNat 64 (encodedFrame textByte0 mask r s.input).length).toNat =
      encHdrw s.inLen + specKeyw mask + s.inLen := by
    rw [toNat_ofNat (by omega), hframe]
  have byte {k : Nat} {b : Byte} (hb : (encodedFrame textByte0 mask r s.input)[k]? = some b) :
      (s.encodeResult textByte0 mask r).obufByte k = b := State.obufByte_of_obuf _ _ rfl k b hb
  refine ⟨⟨rfl, rfl, hlength⟩, byte rfl, ?_, fun j hj => ?_, ?_, fun i hi => ?_, ?_, toNat_ofNat s.inLen_lt, hlength,
    rfl, rfl, rfl, rfl, fun _ => rfl, rfl, rfl⟩
  · rw [byte (by rw [encodedFrame_eq]; rfl), headerByte1_toNat, s.input_length, BitVec.toNat_ofNat,
      Nat.mod_eq_of_lt (encLen7_lt _)]
  · rw [byte (encodedFrame_getElem?_header (by rwa [s.input_length]) ..), s.input_length, BitVec.toNat_ofNat]
  · rintro rfl j hj
    have hbody := encodedFrame_getElem?_body s.input j textByte0 true r
    rw [s.input_length, encodedBody_getElem?_key hj] at hbody
    rw [byte hbody, BitVec.toNat_ofNat]
  · have hbody := encodedFrame_getElem?_body s.input (specKeyw mask + i) textByte0 mask r
    rw [s.input_length, encodedBody_getElem?_payload (s.input_getElem? i hi), ← Nat.add_assoc] at hbody
    exact byte hbody
  · cases mask <;> rfl

/-- An ENCODE that ends with ERR 0 made its checks and left its results (R190, R191). -/
theorem execEncode_of_statusErr_eq_zero {mask : Bool} {s t : State} (h : exec (.encode mask) s = .next t)
    (herr : statusErr t.status = 0#4) :
    s.inLen ≤ s.cfg.ibufSize ∧ s.inLen ≤ s.cfg.maxPayload ∧
      t = s.encodeResult textByte0 mask (Config.rnd s.draws) := by
  obtain rfl : s.encodeFrame textByte0 mask (Config.rnd s.draws) = t := Host.Outcome.next.inj h
  obtain ⟨e, hraise⟩ | hok := s.encodeFrame_cases textByte0 mask (Config.rnd s.draws)
  · rw [hraise] at herr
    exact absurd herr (by simp [errorCode_ne_zero])
  · exact hok

/-! ### A DECODE of that frame -/

/-- `u` holds in IBUF the frame that `t` holds in OBUF, and its length in ILEN (R178). -/
structure State.HoldsOutput (u t : State) : Prop where
  ilen : u.ilen = t.olen
  byte : ∀ k, k < t.olen.toNat → u.ibufByte k = t.obufByte k

/-- Bytes of IBUF that are the big-endian digits of a number read as it, modulo their width (R52). -/
theorem State.ibufNat_of_digits {u : State} {a n v : Nat}
    (h : ∀ j, j < n → (u.ibufByte (a + j)).toNat = v / 256 ^ (n - 1 - j) % 256) : u.ibufNat a n = v % 256 ^ n := by
  have hslice : u.ibufSlice a n = natToBytes n v := by
    refine List.ext_getElem? fun j => ?_
    by_cases hj : j < n
    · rw [u.ibufSlice_getElem? _ _ _ hj, natToBytes_getElem? _ _ _ hj]
      exact congrArg some (BitVec.eq_of_toNat_eq (by simpa using h j hj))
    · rw [List.getElem?_eq_none (by simpa using hj), List.getElem?_eq_none (by simpa using hj)]
  rw [State.ibufNat, hslice, bytesToNat_natToBytes]

section
variable {s t u : State} {mask : Bool} {r : Word32} (henc : s.EncodedAs t mask r) (hcopy : u.HoldsOutput t)
include henc hcopy

/-- The header of the copied frame, byte by byte (R192 to R194). -/
theorem State.EncodedAs.ibufByte_header :
    u.ibufByte 0 = 0x81#8 ∧ (u.ibufByte 1).toNat = 128 * bit mask + encLen7 s.inLen ∧
      ∀ j, j < encHdrw s.inLen - 2 →
        (u.ibufByte (2 + j)).toNat = s.inLen / 256 ^ (encHdrw s.inLen - 3 - j) % 256 := by
  obtain ⟨⟨-, -, holen⟩, h0, h1, hext, -⟩ := henc
  have h2 := two_le_encHdrw s.inLen
  refine ⟨?_, ?_, fun j hj => ?_⟩
  · rw [hcopy.byte 0 (by omega), h0]
  · rw [hcopy.byte 1 (by omega), h1]
  · rw [hcopy.byte _ (by omega), hext j hj]

/-- A DECODE of the copied frame finds the length that ENCODE wrote, in the form that ENCODE chose (R193). -/
theorem State.EncodedAs.specLength : u.specHdrw = encHdrw s.inLen ∧ u.specPlen = s.inLen := by
  obtain ⟨-, h1, hext⟩ := henc.ibufByte_header hcopy
  have hin := s.inLen_lt
  have hlen7 : u.specLen7 = encLen7 s.inLen := by
    have hlt := encLen7_lt s.inLen
    rw [State.specLen7, h1]
    omega
  rw [State.specHdrw, State.specPlen, hlen7]
  obtain hn | ⟨hn, hn'⟩ | ⟨hn, hn'⟩ :
      s.inLen < 126 ∨ (¬s.inLen < 126 ∧ s.inLen ≤ 65535) ∨ (¬s.inLen < 126 ∧ ¬s.inLen ≤ 65535) := by omega
  · have h125 : s.inLen ≤ 125 := by omega
    simp [encLen7, encHdrw, hn, h125]
  · simp only [encHdrw, if_neg hn, if_pos hn'] at hext
    have hlen16 : u.specLen16 = s.inLen := by
      rw [← u.ibufNat_len16, State.ibufNat_of_digits hext, Nat.mod_eq_of_lt (by omega)]
    simp [encLen7, encHdrw, hn, hn', hlen16]
  · simp only [encHdrw, if_neg hn, if_neg hn'] at hext
    have hlen64 : u.specLen64 = s.inLen := by
      rw [← u.ibufNat_len64, State.ibufNat_of_digits hext, Nat.mod_eq_of_lt (by omega)]
    simp [encLen7, encHdrw, hn, hn', hlen64]

/-- A DECODE of the copied frame finds fin 1, opcode text and the MASK bit that ENCODE wrote (R192, R194). -/
theorem State.EncodedAs.specFields : u.specFin = true ∧ u.specOpcode = 1 ∧ u.specMasked = mask := by
  obtain ⟨h0, h1, -⟩ := henc.ibufByte_header hcopy
  have hlt := encLen7_lt s.inLen
  refine ⟨by simp [State.specFin, h0], by simp [State.specOpcode, h0], ?_⟩
  rw [State.specMasked, h1]
  cases mask with
  | false => simpa [bit] using hlt
  | true => simp [bit]

/-- The key bytes of a masked frame are the digits of the drawn value (R195). -/
theorem State.EncodedAs.ibufByte_key (hm : mask = true) {j : Nat} (hj : j < 4) :
    (u.ibufByte (encHdrw s.inLen + j)).toNat = r.toNat / 256 ^ (3 - j) % 256 := by
  subst hm
  obtain ⟨⟨-, -, holen⟩, -, -, -, hkey, -⟩ := henc
  rw [specKeyw, if_pos rfl] at holen
  rw [hcopy.byte _ (by omega), hkey rfl j hj]

/-- A DECODE of the copied frame finds the drawn value as the key of a masked frame (R169, R195). -/
theorem State.EncodedAs.frameKey_eq (hm : mask = true) : u.frameKey (encHdrw s.inLen) = r := by
  rw [State.frameKey, State.ibufNat_of_digits fun j hj => henc.ibufByte_key hcopy hm hj]
  exact BitVec.eq_of_toNat_eq (by simpa using r.isLt)

/-- The payload byte that DECODE returns is the one ENCODE was given: the key that masked it unmasks it (R101, R168, R169). -/
theorem State.EncodedAs.unmasked_payload {i : Nat} (hi : i < s.inLen) :
    (if mask then u.ibufByte (encHdrw s.inLen + 4 + i) ^^^ u.ibufByte (encHdrw s.inLen + i % 4)
      else u.ibufByte (encHdrw s.inLen + i)) = s.ibufByte i := by
  have hkey := fun hm => henc.ibufByte_key hcopy hm (Nat.mod_lt i (by decide))
  obtain ⟨⟨-, -, holen⟩, -, -, -, -, hpay, -⟩ := henc
  have hbyte := (hcopy.byte (encHdrw s.inLen + specKeyw mask + i) (by omega)).trans (hpay i hi)
  cases mask with
  | false => simpa [specKeyw] using hbyte
  | true =>
    have hkeyByte : u.ibufByte (encHdrw s.inLen + i % 4) = BitVec.ofNat 8 (r.toNat / 256 ^ (3 - i % 4)) :=
      BitVec.eq_of_toNat_eq (by rw [hkey rfl, BitVec.toNat_ofNat])
    simp only [specKeyw, if_true] at hbyte
    simp [hbyte, hkeyByte]

end

/-- Settles O45: the copied frame fits, its header parses to what ENCODE wrote, and unmasking with the drawn key gives the
payload back. -/
theorem decodeOfEncodeIsThePayload : Obligations.DecodeOfEncodeIsThePayload := by
  intro m s t u hlegal hexec herr hfits hcfg hilen hbyte
  obtain ⟨hlen, hmax, rfl⟩ := execEncode_of_statusErr_eq_zero hexec herr
  have henc := s.encodeResult_encodedAs m (Config.rnd s.draws) hlegal hlen
  have hcopy : u.HoldsOutput _ := ⟨hilen, hbyte⟩
  obtain ⟨hfin, hopcode, hmasked⟩ := henc.specFields hcopy
  obtain ⟨hhdrw, hplen⟩ := henc.specLength hcopy
  have ⟨⟨_, _, holen⟩, _⟩ := henc
  have hulen : u.inLen = encHdrw s.inLen + specKeyw m + s.inLen := by
    rw [State.inLen, hilen, holen]
  have hframe : u.FrameFits u.specMasked u.specHdrw u.specPlen := by
    rw [hmasked, hhdrw, hplen, State.FrameFits, hcfg, hulen, ← holen]
    exact ⟨hfits, hmax, le_rfl⟩
  obtain ⟨v, hdecode, hv⟩ := decodeResult m u hframe
  rw [hfin, hopcode, hmasked, hhdrw, hplen] at hv
  obtain ⟨hcompleted, hpay, hhdr, hpaylen, hframelen, hkey, -⟩ := hv
  refine ⟨v, hdecode, by simpa using hcompleted, fun i hi => ?_, ?_, hpaylen, ?_, fun hm => ?_⟩
  · rw [hpay i hi, henc.unmasked_payload hcopy hi]
  · rw [hhdr]
    rfl
  · exact BitVec.eq_of_toNat_eq (hframelen.trans holen.symm)
  · have hkeyv : v.key = Config.rnd s.draws := by
      rw [← henc.frameKey_eq hcopy hm]
      exact BitVec.eq_of_toNat_eq ((hkey hm).trans (u.frameKey_toNat _).symm)
    subst hm
    exact ⟨hkeyv, hkeyv⟩

end Sys2Proof.Machine
end

section
/-! The obligations of 44_encode: ENCODE's result, the header of its frame, the row of its first byte, its errors. -/

namespace Sys2Proof.Machine

/-! ### The ends of an ENCODE -/

/-- With both checks passed an ENCODE leaves its results (R190, R191). -/
theorem State.encodeFrame_ok {s : State} (hlen : s.inLen ≤ s.cfg.ibufSize) (hmax : s.inLen ≤ s.cfg.maxPayload)
    (b0 : Byte) (mask : Bool) (r : Word32) : s.encodeFrame b0 mask r = s.encodeResult b0 mask r := by
  rw [State.encodeFrame, State.checkLength_ok _ _ hlen, if_neg (Nat.not_lt.2 hmax)]

/-- Above IBUF_SIZE an ENCODE ends with IllegalCommand before its own check (R86, R213). -/
theorem State.encodeFrame_of_ibufSize_lt {s : State} (h : s.cfg.ibufSize < s.inLen) (b0 : Byte) (mask : Bool)
    (r : Word32) : s.encodeFrame b0 mask r = s.raise .illegalCommand :=
  if_pos h

/-- Above MAX_PAYLOAD an ENCODE that is no IllegalCommand ends with PayloadTooLarge (R191). -/
theorem State.encodeFrame_of_maxPayload_lt {s : State} (hlen : s.inLen ≤ s.cfg.ibufSize)
    (h : s.cfg.maxPayload < s.inLen) (b0 : Byte) (mask : Bool) (r : Word32) :
    s.encodeFrame b0 mask r = s.raise .payloadTooLarge := by
  rw [State.encodeFrame, State.checkLength_ok _ _ hlen, if_pos h]

/-- ENCODE_BYTE0 is the ENCODE with the latched FLAG: the byte it carries is ENCODE's own byte 0 (R192; log 7). -/
theorem exec_encodeByte0 (s : State) : exec .encodeByte0 s = exec (.encode s.flag) s := rfl

/-- Settles O41: both checks pass, and the results are those of the spec's arithmetic. -/
theorem encodeResult : Obligations.EncodeResult := by
  intro mask s hlegal hlen hmax
  exact ⟨_, rfl, State.encodeFrame_ok hlen hmax .. ▸ s.encodeResult_encodedAs mask _ hlegal hlen⟩

/-- Settles O44: of the two checks IBUF_SIZE comes first, and each raises its error, for both rows. -/
theorem encodeTooLarge : Obligations.EncodeTooLarge := by
  intro mask s i hi
  obtain ⟨b0, m, r, hexec⟩ : ∃ b0 m r, exec i s = .next (s.encodeFrame b0 m r) := by
    obtain rfl | rfl := hi <;> exact ⟨_, _, _, rfl⟩
  rw [hexec]
  refine ⟨fun hlen => ?_, fun hlen hmax => ?_⟩
  · rw [State.encodeFrame_of_ibufSize_lt hlen]
    exact s.raise_illegalCommand
  · rw [State.encodeFrame_of_maxPayload_lt hlen hmax]
    exact ⟨_, rfl, s.raise_failedWith .payloadTooLarge, s.raise_sameHeaderRegs _⟩

/-- Settles O43: the row is the ENCODE with the latched FLAG, whose frame O41 describes. -/
theorem encodeByte0Result : Obligations.EncodeByte0Result := by
  intro s
  refine ⟨exec_encodeByte0 s, fun hlegal hlen hmax => ?_⟩
  rw [exec_encodeByte0]
  obtain ⟨t, hexec, henc⟩ := encodeResult s.flag s hlegal hlen hmax
  have ⟨_, hbyte0, _⟩ := henc
  exact ⟨t, hexec, hbyte0, henc⟩

/-! ### The header of the frame -/

section
variable {s t : State} {mask : Bool} {r : Word32} (henc : s.EncodedAs t mask r)
include henc

/-- The two bytes of a 16-bit extended length are its quotient and remainder by 256 (R193, R194). -/
theorem State.EncodedAs.extendedLength16 (h126 : 126 ≤ s.inLen) (h65535 : s.inLen ≤ 65535) :
    (t.obufByte 2).toNat = s.inLen / 256 ∧ (t.obufByte 3).toNat = s.inLen % 256 := by
  obtain ⟨-, -, -, hext, -⟩ := henc
  rw [show encHdrw s.inLen = 4 by rw [encHdrw, if_neg (by omega), if_pos h65535]] at hext
  have hhigh : (t.obufByte 2).toNat = s.inLen / 256 % 256 := hext 0 (by decide)
  have hlow : (t.obufByte 3).toNat = s.inLen / 1 % 256 := hext 1 (by decide)
  omega

/-- The eight bytes of a 64-bit extended length are its digits to the base 256 (R193, R194). -/
theorem State.EncodedAs.extendedLength64 (h65535 : 65535 < s.inLen) {j : Nat} (hj : j < 8) :
    (t.obufByte (2 + j)).toNat = s.inLen / 256 ^ (7 - j) % 256 := by
  obtain ⟨-, -, -, hext, -⟩ := henc
  rw [show encHdrw s.inLen = 10 by rw [encHdrw, if_neg (by omega), if_neg (by omega)]] at hext
  exact hext j hj

/-- HDR after an ENCODE, field by field: FIN, MASKED as FLAG has it, OPCODE text (R30, R198). -/
theorem State.EncodedAs.hdr_toNat : t.hdr.toNat = 1 + 2 * bit mask + 16 := by
  obtain ⟨-, -, -, -, -, -, hhdr, -⟩ := henc
  rw [hhdr]
  cases mask <;> rfl

end

/-- Settles O42: the extended length is read off the digits that O41 gives, in the form the length selects. -/
theorem encodeHeaderIsTheShortestForm : Obligations.EncodeHeaderIsTheShortestForm := by
  intro mask s hlegal hlen hmax
  obtain ⟨t, hexec, henc⟩ := encodeResult mask s hlegal hlen hmax
  have ⟨hcompleted, hbyte0, hbyte1, _, _, _, _, hpaylen, hframelen, _, _⟩ := henc
  have ⟨_, _, holen⟩ := hcompleted
  exact ⟨t, hexec, hcompleted, hbyte0, hbyte1, henc.extendedLength16, fun h _ hj => henc.extendedLength64 h hj,
    henc.hdr_toNat, hpaylen, BitVec.eq_of_toNat_eq (hframelen.trans holen.symm)⟩

end Sys2Proof.Machine
end

section
/-! The obligation of 60_exceptions: each of the conditions of R86 ends with IllegalCommand, whatever the word latched. -/

namespace Sys2Proof.Machine

/-- A reserved row raises IllegalCommand (R86, R214). -/
theorem exec_of_reservedInstr {i : Instr} (h : reservedInstr i = true) (s : State) :
    exec i s = .next (s.raise .illegalCommand) := by
  cases i with
  | reservedOp0 | reservedOp7 | reservedOp8_15 => rfl
  | decode | encode | negotiate | maskxor | sha1 | b64enc => cases h
  | f16u | f16m | f64u | f64m | f7u | f7m | encodeByte0 => cases h

/-- Above IBUF_SIZE every instruction ends with IllegalCommand: the operations by the check they make first (R86, R213). -/
theorem exec_of_ibufSize_lt {s : State} (h : s.cfg.ibufSize < s.inLen) (i : Instr) :
    exec i s = .next (s.raise .illegalCommand) := by
  have check (run : State) : s.checkLength run = s.raise .illegalCommand := if_pos h
  cases i with
  | reservedOp0 | reservedOp7 | reservedOp8_15 => rfl
  | decode | encode | negotiate | maskxor | sha1 | b64enc => exact congrArg _ (check _)
  | f16u | f16m | f64u | f64m | f7u | f7m | encodeByte0 => exact congrArg _ (check _)

/-- An illegal word decodes to a reserved row, where it decodes at all: none of the eight words of R84 is illegal (R86). -/
theorem IllegalWord.reservedInstr_of_decode {w : Word32} {i : Instr} (hillegal : IllegalWord w)
    (hdecode : decode (.command w) = .ok i) : reservedInstr i = true := by
  refine Bool.of_not_eq_false fun hlegal => ?_
  obtain ⟨rfl, -⟩ | ⟨rfl, -⟩ | ⟨rfl, -⟩ | ⟨rfl, -⟩ | ⟨rfl, -⟩ | ⟨rfl, -⟩ | ⟨rfl, -⟩ | ⟨rfl, -⟩ :=
    (legalCommandWordsAreExactlyEight w i).1 ⟨hdecode, hlegal⟩
  all_goals simp [IllegalWord] at hillegal

/-- An illegal word, or any word above IBUF_SIZE, completes with IllegalCommand, whether or not it decodes (R86, R214). -/
theorem runCommand_of_illegal {w : Word32} {s : State} (h : IllegalWord w ∨ s.cfg.ibufSize < s.inLen) :
    runCommand w s = .next (s.raise .illegalCommand) := by
  rw [runCommand]
  split
  next i hdecode =>
    obtain hillegal | hlen := h
    · exact exec_of_reservedInstr (hillegal.reservedInstr_of_decode hdecode) s
    · exact exec_of_ibufSize_lt hlen i
  next => rfl

/-- Settles O7: on its turn the block completes the latched word, which every condition of R86 ends with IllegalCommand. -/
theorem illegalCommandInFull : Obligations.IllegalCommandInFull := by
  intro s w rest hturn hillegal
  have hrun : runCommand w { s with moves := rest } = .next (State.raise { s with moves := rest } .illegalCommand) :=
    runCommand_of_illegal hillegal
  rw [hturn.step_eq, hrun]
  exact State.raise_illegalCommand { s with moves := rest }

end Sys2Proof.Machine
end

section
/-! The obligations of 70_reset_and_hazards: in BUSY the host's one access is the read of STATUS, and the operation completes
after any number of them. -/

namespace Sys2Proof.Machine

/-! ### The read of STATUS in BUSY, the host's only access there -/

/-- In any phase the step on a read of STATUS returns it (R21 step 1). -/
theorem step_readStatus {s : State} {rest : List Move} (hmoves : s.moves = .readReg 1 :: rest) :
    step s = .next { s with moves := rest, readData := some (s.status.zeroExtend 64) } := by
  rw [step_cons s _ _ hmoves, takeMove, hostReadReg, if_neg (fun h => h.2 rfl)]
  rfl

/-- In BUSY every move of the host but the read of STATUS and the reset is refused (R250). -/
theorem takeMove_of_busy {s : State} {m : Move} (hbusy : s.busy = true) (hstatus : m ≠ .readReg 1)
    (hturn : m ≠ .blockTurn) (hreset : m ≠ .assertReset) : takeMove m s = .refused .busyAccess := by
  cases m with
  | blockTurn => exact absurd rfl hturn
  | assertReset => exact absurd rfl hreset
  | readReg i => exact if_pos ⟨hbusy, fun hi => hstatus (congrArg _ hi)⟩
  | writeReg | readIbuf | writeIbuf | readObuf | writeObuf => exact if_pos hbusy

/-- A word with the reserved bits 31:8 of STATUS 0 is its low byte (R26). -/
theorem exists_byte_of_reserved {w : Word32} (h : w &&& 0xFFFFFF08#32 = 0#32) : ∃ b : Byte, w = b.zeroExtend 32 := by
  refine ⟨w.truncate 8, BitVec.eq_of_getLsbD_eq fun i hi => ?_⟩
  by_cases hlow : i < 8
  · simp [hi, hlow]
  · have hmask : ∀ i < 32, ¬ i < 8 → (0xFFFFFF08#32).getLsbD i = true := by decide
    have hbit : w.getLsbD i = false := by
      simpa only [BitVec.getLsbD_and, hmask i hi hlow, Bool.and_true, BitVec.getLsbD_zero] using
        congrArg (BitVec.getLsbD · i) h
    simp [hlow, hbit]

/-- A word whose reserved bits are 0 is the STATUS word of its own fields (R26). -/
theorem eq_statusWord_of_reserved {w : Word32} (h : w &&& 0xFFFFFF08#32 = 0#32) :
    w = statusWord (statusBusy w) (statusDone w) (statusMm w) (statusErr w) := by
  obtain ⟨b, rfl⟩ := exists_byte_of_reserved h
  revert b
  decide

/-- STATUS in BUSY, where it is a value the spec allows, is 0x00000001 (R26). -/
theorem State.StatusOk.status_of_busy {s : State} (h : s.StatusOk) (hbusy : s.busy = true) : s.status = 0x1#32 := by
  obtain ⟨hreserved, hexclusive, _, hmm, herr⟩ := h
  have hbusy : statusBusy s.status = true := hbusy
  have hnotDone : ¬ statusDone s.status = true := fun hdone => hexclusive ⟨hbusy, hdone⟩
  have hdone : statusDone s.status = false := Bool.eq_false_iff.2 hnotDone
  have hmm : statusMm s.status = false := Bool.eq_false_iff.2 fun hm => hnotDone (hmm hm).1
  have herr : statusErr s.status = 0#4 := of_not_not fun he => hnotDone (herr he)
  rw [eq_statusWord_of_reserved hreserved, hbusy, hdone, hmm, herr]
  rfl

/-- Settles O15: the step on a read of STATUS, the value of STATUS in BUSY, and the refusal of every other access. -/
theorem busyAccessIsRefused : Obligations.BusyAccessIsRefused := by
  intro s m rest hbusy hmoves
  refine ⟨?_, fun hstatus hturn hreset => ?_⟩
  · rintro rfl
    refine ⟨_, step_readStatus hmoves, BitVec.toNat_setWidth_of_le (by decide), fun hinv => ?_⟩
    obtain ⟨_, hstatus, _⟩ := hinv
    rw [hstatus.status_of_busy hbusy]
    rfl
  · rw [step_cons s m rest hmoves]
    exact takeMove_of_busy hbusy hstatus hturn hreset

/-! ### The waiting host -/

/-- A run of one step more is that step, then the run from the state it leads to. -/
theorem run_succ_of_step {M : Host.Core} {s t : M.State} (h : M.step s = .next t) (k : Nat) :
    M.run (k + 1) s = M.run k t := by
  rw [Host.Core.run, h]

/-- A run begins with the `n` reads of STATUS at the head of the moves, which leave the state but for the moves and what the
host has read (R26). -/
theorem run_statusReads {n : Nat} {s : State} {tail : List Move} (hmoves : s.moves = List.replicate n (.readReg 1) ++ tail) :
    ∃ v, ∀ k, core.run (n + k) s = core.run k { s with moves := tail, readData := v } := by
  induction n generalizing s with
  | zero =>
    obtain rfl : s.moves = tail := hmoves
    exact ⟨s.readData, fun k => by rw [Nat.zero_add]⟩
  | succ n ih =>
    have hstep := step_readStatus hmoves
    obtain ⟨v, hrun⟩ := ih (s := { s with moves := _, readData := some (s.status.zeroExtend 64) }) rfl
    refine ⟨v, fun k => ?_⟩
    rw [Nat.add_right_comm]
    exact (run_succ_of_step hstep (n + k)).trans (hrun k)

/-- DONE is 1 at the end of an operation (R21 step 3). -/
theorem OpEnd.donePin_eq_true {s t : State} (h : OpEnd s t) : t.donePin = true := by
  obtain ⟨e, hstatus, _⟩ | ⟨mm, hstatus⟩ := h.status_olen <;> simp [State.donePin, hstatus]

/-- The block's turn in BUSY completes the operation: BUSY 0, DONE 1, nothing latched, the later moves still to come (R21 step 3,
R256). -/
theorem State.TurnWith.completes {s : State} {w : Word32} {rest : List Move} (h : s.TurnWith w rest) :
    ∃ t, step s = .next t ∧ t.busy = false ∧ t.donePin = true ∧ t.latched = none ∧ t.moves = rest := by
  obtain ⟨t, hrun, hend⟩ := runCommand_ends w { s with moves := rest }
  obtain ⟨_, hidle⟩ := hend.statusOk_and_idle
  obtain ⟨_, _, _, _, hmoves, _⟩ := hend.sameInput
  exact ⟨t, h.step_eq.trans hrun, hidle, hend.donePin_eq_true, hend.latched_eq_none, hmoves⟩

/-- Settles O50: the run makes the STATUS reads, which keep the phase and the latched word, then the block's turn. -/
theorem waitingHostSeesCompletion : Obligations.WaitingHostSeesCompletion := by
  intro s w n rest hbusy hlatched hmoves
  obtain ⟨tail, hmoves, hturn⟩ : ∃ tail, s.moves = List.replicate n (.readReg 1) ++ tail ∧
      (tail = .blockTurn :: rest ∨ (tail = [] ∧ rest = [])) := by
    obtain hmoves | ⟨hmoves, hrest⟩ := hmoves
    · exact ⟨_, hmoves, .inl rfl⟩
    · exact ⟨[], by rw [hmoves, List.append_nil], .inr ⟨rfl, hrest⟩⟩
  obtain ⟨v, hrun⟩ := run_statusReads hmoves
  have hturn : State.TurnWith { s with moves := tail, readData := v } w rest := ⟨hbusy, hlatched, hturn⟩
  obtain ⟨t, hstep, hdone⟩ := hturn.completes
  exact ⟨t, (hrun 1).trans (run_succ_of_step hstep 0), hdone⟩

end Sys2Proof.Machine
end
